-- ==== Sys2Proof/Word.lean ====
section
/-! DEFINITION. The block's data: the 32-bit port word, the byte of a byte transport, and the value
of the default arithmetic `NUM` (IEEE-754 binary64, rule R7 of 00_scope.md). -/

namespace Sys2Proof

/-- The unit of transfer on the command and response ports (rule R62 of 20_memory.md). -/
abbrev Word := BitVec 32

/-- A byte of a byte transport (rule R62). -/
abbrev Byte := BitVec 8

/-- A value of `NUM` under its default realisation, IEEE-754 binary64 (rules R7 and R10): the
register's 64-bit pattern, sign in bit 63, exponent in bits 62:52, fraction in bits 51:0. -/
structure F64 where
  /-- the binary64 bit pattern -/
  bits : BitVec 64
deriving DecidableEq, Repr, Inhabited

/-- The filter's array of four stage accumulators `FILT.y[1..4]` (rule R35 of 10_state.md). -/
structure Stages where
  /-- `FILT.y[1]` -/
  y1 : F64
  /-- `FILT.y[2]` -/
  y2 : F64
  /-- `FILT.y[3]` -/
  y3 : F64
  /-- `FILT.y[4]`, the top stage -/
  y4 : F64
deriving DecidableEq, Repr, Inhabited

/-- The filter's derived coefficients `(b0, k, g)` (rule R34 of 10_state.md). -/
structure Coefs where
  /-- stage coefficient -/
  b0 : F64
  /-- feedback gain -/
  k : F64
  /-- output gain -/
  g : F64
deriving DecidableEq, Repr, Inhabited

end Sys2Proof
end

