-- ==== Sys2Proof/Syntax.lean ====
section
/-! DEFINITION. The commands: one constructor per row of spec/opcode_table.json, with the raw
operand words in arrival order (rules R83 and R85 of 30_encoding.md). -/

namespace Sys2Proof

/-- A command of rule R85 with its operand words.  An operand is the word as it arrived: whether
it is an `F32` or a `U32` is fixed by the opcode and the position (rule R83), and its checks are
part of the command's execution (rule R263 of 60_exceptions.md). -/
inductive Instr where
  /-- NOP, rule R240 -/
  | nop
  /-- RESET, rule R242 -/
  | reset
  /-- TICK `fm:F32`, rule R241 -/
  | tick (fm : Word)
  /-- PEEK `index:U32`, rule R243 -/
  | peek (index : Word)
  /-- OSC_SR `hz:F32`, rule R116 -/
  | oscSr (hz : Word)
  /-- OSC_FREQ `hz:F32`, rule R117 -/
  | oscFreq (hz : Word)
  /-- OSC_GLIDE `hz:F32, ms:F32`, rule R118 -/
  | oscGlide (hz ms : Word)
  /-- OSC_WAVE `w:U32`, rule R119 -/
  | oscWave (w : Word)
  /-- OSC_BLEND `b:F32`, rule R120 -/
  | oscBlend (b : Word)
  /-- OSC_SUBBLEND `s:F32`, rule R121 -/
  | oscSubblend (sb : Word)
  /-- OSC_JC303 `m:U32`, rule R122 -/
  | oscJc303 (m : Word)
  /-- OSC_PHRST, rule R123 -/
  | oscPhrst
  /-- OSC_PROC, rule R124 -/
  | oscProc
  /-- AENV_SR `hz:F32`, rule R151 -/
  | aenvSr (hz : Word)
  /-- AENV_ATK `ms:F32`, rule R152 -/
  | aenvAtk (ms : Word)
  /-- AENV_DEC `ms:F32`, rule R153 -/
  | aenvDec (ms : Word)
  /-- AENV_REL `ms:F32`, rule R154 -/
  | aenvRel (ms : Word)
  /-- AENV_ON, rule R155 -/
  | aenvOn
  /-- AENV_OFF, rule R156 -/
  | aenvOff
  /-- AENV_PROC, rule R157 -/
  | aenvProc
  /-- AENV_ACTIVE, rule R158 -/
  | aenvActive
  /-- MENV_SR `hz:F32`, rule R181 -/
  | menvSr (hz : Word)
  /-- MENV_DEC `ms:F32`, rule R182 -/
  | menvDec (ms : Word)
  /-- MENV_TRIG, rule R183 -/
  | menvTrig
  /-- MENV_PROC, rule R184 -/
  | menvProc
  /-- FILT_SR `hz:F32`, rule R207 -/
  | filtSr (hz : Word)
  /-- FILT_CUT `hz:F32`, rule R208 -/
  | filtCut (hz : Word)
  /-- FILT_RES `r:F32`, rule R209 -/
  | filtRes (r : Word)
  /-- FILT_ENVMOD `depth:F32`, rule R210 -/
  | filtEnvmod (depth : Word)
  /-- FILT_FMAMT `depth:F32`, rule R211 -/
  | filtFmamt (depth : Word)
  /-- FILT_PROC `in:F32, env:F32, acc:F32, fm:F32`, rule R214 -/
  | filtProc (input env acc fm : Word)
deriving DecidableEq, Repr

/-- The `resp` column of rule R85: how many words the command emits on the response port, whether
it completes or is dropped (rule R90). -/
def Instr.respCount : Instr → Nat
  | .nop => 0
  | .reset => 0
  | .tick _ => 2
  | .peek _ => 1
  | .oscSr _ => 0
  | .oscFreq _ => 0
  | .oscGlide _ _ => 0
  | .oscWave _ => 0
  | .oscBlend _ => 0
  | .oscSubblend _ => 0
  | .oscJc303 _ => 0
  | .oscPhrst => 0
  | .oscProc => 1
  | .aenvSr _ => 0
  | .aenvAtk _ => 0
  | .aenvDec _ => 0
  | .aenvRel _ => 0
  | .aenvOn => 0
  | .aenvOff => 0
  | .aenvProc => 1
  | .aenvActive => 1
  | .menvSr _ => 0
  | .menvDec _ => 0
  | .menvTrig => 0
  | .menvProc => 1
  | .filtSr _ => 0
  | .filtCut _ => 0
  | .filtRes _ => 0
  | .filtEnvmod _ => 0
  | .filtFmamt _ => 0
  | .filtProc _ _ _ _ => 1

end Sys2Proof
end

