-- ==== Sys2Proof/Decode.lean ====
section
/-! DEFINITION. Decoding and encoding of commands (30_encoding.md): the header's fields, the opcode
map of rule R85, the framing length of rule R82, the byte order of rule R62, and the encoder. -/

namespace Sys2Proof

/-- Why a header is rejected, or why a stream holds no whole command yet. -/
inductive Reject where
  /-- fewer words have arrived than the command has (rules R63 and R82): not an error -/
  | truncated
  /-- `RSV != 0` (rule R87): ERR_RESERVED -/
  | reserved
  /-- an undefined `OPC`, or an `NW` that is not its row's (rule R87): ERR_OPCODE -/
  | opcode
deriving DecidableEq, Repr

/-- `OPC`, bits 7:0 of the header (rule R81). -/
def opcField (h : Word) : Nat := h.toNat % 2 ^ 8

/-- `NW`, bits 10:8 of the header: how many operand words follow (rules R81 and R82). -/
def nwField (h : Word) : Nat := h.toNat / 2 ^ 8 % 2 ^ 3

/-- `RSV`, bits 31:11 of the header (rule R81). -/
def rsvField (h : Word) : Nat := h.toNat / 2 ^ 11

/-- The opcode map of rule R85.  The header must match a row exactly (mask `0xFFFFFFFF`) and the
command have the operand words of that row. -/
def instrOf (h : Word) (ops : List Word) : Option Instr :=
  match h.toNat, ops with
  | 0x00000000, [] => some .nop
  | 0x00000001, [] => some .reset
  | 0x00000102, [fm] => some (.tick fm)
  | 0x00000103, [index] => some (.peek index)
  | 0x00000110, [hz] => some (.oscSr hz)
  | 0x00000111, [hz] => some (.oscFreq hz)
  | 0x00000212, [hz, ms] => some (.oscGlide hz ms)
  | 0x00000113, [w] => some (.oscWave w)
  | 0x00000114, [b] => some (.oscBlend b)
  | 0x00000115, [sb] => some (.oscSubblend sb)
  | 0x00000116, [m] => some (.oscJc303 m)
  | 0x00000017, [] => some .oscPhrst
  | 0x00000018, [] => some .oscProc
  | 0x00000120, [hz] => some (.aenvSr hz)
  | 0x00000121, [ms] => some (.aenvAtk ms)
  | 0x00000122, [ms] => some (.aenvDec ms)
  | 0x00000123, [ms] => some (.aenvRel ms)
  | 0x00000024, [] => some .aenvOn
  | 0x00000025, [] => some .aenvOff
  | 0x00000026, [] => some .aenvProc
  | 0x00000027, [] => some .aenvActive
  | 0x00000130, [hz] => some (.menvSr hz)
  | 0x00000131, [ms] => some (.menvDec ms)
  | 0x00000032, [] => some .menvTrig
  | 0x00000033, [] => some .menvProc
  | 0x00000140, [hz] => some (.filtSr hz)
  | 0x00000141, [hz] => some (.filtCut hz)
  | 0x00000142, [r] => some (.filtRes r)
  | 0x00000143, [depth] => some (.filtEnvmod depth)
  | 0x00000144, [depth] => some (.filtFmamt depth)
  | 0x00000445, [input, env, acc, fm] => some (.filtProc input env acc fm)
  | _, _ => none

/-- The decoding of a whole command, its header and the operand words that the framing collected:
checks 1 and 2 of rule R263 (60_exceptions.md), in that order. -/
def decodeCommand (h : Word) (ops : List Word) : Except Reject Instr :=
  if rsvField h ≠ 0 then .error .reserved
  else
    match instrOf h ops with
    | some i => .ok i
    | none => .error .opcode

/-- The command at the front of a word stream, and the rest of the stream.  The length is
`1 + header[10:8]` words whatever `OPC` and `RSV` hold (rule R82). -/
def decodeWords : List Word → Except Reject (Instr × List Word)
  | [] => .error .truncated
  | h :: rest =>
    if rest.length < nwField h then .error .truncated
    else
      match decodeCommand h (rest.take (nwField h)) with
      | .ok i => .ok (i, rest.drop (nwField h))
      | .error r => .error r

/-- The word carried by four bytes, least significant byte first (rule R62 of 20_memory.md). -/
def wordOfBytes (b0 b1 b2 b3 : Byte) : Word :=
  BitVec.ofNat 32 (b0.toNat + 2 ^ 8 * b1.toNat + 2 ^ 16 * b2.toNat + 2 ^ 24 * b3.toNat)

/-- The words that a byte transport has delivered.  Bytes that end in the middle of a word have
delivered no word (rule R63 of 20_memory.md). -/
def wordsOfBytes : List Byte → List Word
  | b0 :: b1 :: b2 :: b3 :: rest => wordOfBytes b0 b1 b2 b3 :: wordsOfBytes rest
  | _ => []

/-- The bytes at the end of a transport's bytes that are short of a word: at most three (rule R63). -/
def restOfBytes : List Byte → List Byte
  | _ :: _ :: _ :: _ :: rest => restOfBytes rest
  | bs => bs

/-- Byte `k` of a word in the transport's order (rule R62). -/
def byteOfWord (w : Word) (k : Nat) : Byte := BitVec.ofNat 8 (w.toNat / 2 ^ (8 * k))

/-- The bytes that carry a list of words (rule R62). -/
def bytesOfWords : List Word → List Byte
  | [] => []
  | w :: ws => byteOfWord w 0 :: byteOfWord w 1 :: byteOfWord w 2 :: byteOfWord w 3 :: bytesOfWords ws

/-- Decoding from the bytes of a transport. -/
def decodeBytes (bs : List Byte) : Except Reject (Instr × List Word) := decodeWords (wordsOfBytes bs)

/-- The header word of a command (rule R85). -/
def headerOf : Instr → Word
  | .nop => 0x00000000#32
  | .reset => 0x00000001#32
  | .tick _ => 0x00000102#32
  | .peek _ => 0x00000103#32
  | .oscSr _ => 0x00000110#32
  | .oscFreq _ => 0x00000111#32
  | .oscGlide _ _ => 0x00000212#32
  | .oscWave _ => 0x00000113#32
  | .oscBlend _ => 0x00000114#32
  | .oscSubblend _ => 0x00000115#32
  | .oscJc303 _ => 0x00000116#32
  | .oscPhrst => 0x00000017#32
  | .oscProc => 0x00000018#32
  | .aenvSr _ => 0x00000120#32
  | .aenvAtk _ => 0x00000121#32
  | .aenvDec _ => 0x00000122#32
  | .aenvRel _ => 0x00000123#32
  | .aenvOn => 0x00000024#32
  | .aenvOff => 0x00000025#32
  | .aenvProc => 0x00000026#32
  | .aenvActive => 0x00000027#32
  | .menvSr _ => 0x00000130#32
  | .menvDec _ => 0x00000131#32
  | .menvTrig => 0x00000032#32
  | .menvProc => 0x00000033#32
  | .filtSr _ => 0x00000140#32
  | .filtCut _ => 0x00000141#32
  | .filtRes _ => 0x00000142#32
  | .filtEnvmod _ => 0x00000143#32
  | .filtFmamt _ => 0x00000144#32
  | .filtProc _ _ _ _ => 0x00000445#32

/-- The operand words of a command in arrival order (rule R83). -/
def operandsOf : Instr → List Word
  | .nop => []
  | .reset => []
  | .tick fm => [fm]
  | .peek index => [index]
  | .oscSr hz => [hz]
  | .oscFreq hz => [hz]
  | .oscGlide hz ms => [hz, ms]
  | .oscWave w => [w]
  | .oscBlend b => [b]
  | .oscSubblend sb => [sb]
  | .oscJc303 m => [m]
  | .oscPhrst => []
  | .oscProc => []
  | .aenvSr hz => [hz]
  | .aenvAtk ms => [ms]
  | .aenvDec ms => [ms]
  | .aenvRel ms => [ms]
  | .aenvOn => []
  | .aenvOff => []
  | .aenvProc => []
  | .aenvActive => []
  | .menvSr hz => [hz]
  | .menvDec ms => [ms]
  | .menvTrig => []
  | .menvProc => []
  | .filtSr hz => [hz]
  | .filtCut hz => [hz]
  | .filtRes r => [r]
  | .filtEnvmod depth => [depth]
  | .filtFmamt depth => [depth]
  | .filtProc input env acc fm => [input, env, acc, fm]

/-- The words of a command: its header, then its operand words (rule R80). -/
def encode (i : Instr) : List Word := headerOf i :: operandsOf i

/-- The bytes of the first `n` words of an instruction whose bits are `w`, numbered as
spec/opcode_table.json numbers them (bit 0 is the least significant bit of the first word), in the
transport's order. -/
def tableBytes : Nat → Nat → List Byte
  | 0, _ => []
  | n + 1, w =>
    BitVec.ofNat 8 w :: BitVec.ofNat 8 (w / 2 ^ 8) :: BitVec.ofNat 8 (w / 2 ^ 16)
      :: BitVec.ofNat 8 (w / 2 ^ 24) :: tableBytes n (w / 2 ^ 32)

/-- The words of the command whose bits are `w`, every bit from `nbits` up being 0: the header and
as many operand words as its `NW` says (at most 7). -/
def tableWords (nbits w : Nat) : List Word :=
  match wordsOfBytes (tableBytes 8 (w % 2 ^ nbits)) with
  | [] => []
  | h :: rest => h :: rest.take (nwField h)

/-- The instruction the decoder reads from an instruction whose bits are `w`. -/
def decodeTableWord (nbits w : Nat) : Option Instr :=
  match decodeBytes (tableBytes 8 (w % 2 ^ nbits)) with
  | .ok (i, _) => some i
  | .error _ => none

end Sys2Proof
end

