-- ==== Sys2Proof/Config.lean ====
section
/-! DEFINITION. What an implementation fixes: all thirteen `OPEN` parameters of rule R7 (00_scope.md) as
one record, which the block's operations, its commands, its reset and its step take as an argument,
and the free values that the spec leaves open.  The values the spec decides for the parameters are in
Sys2Proof/Machine/Defaults.lean. -/

namespace Sys2Proof

/-- `NUM`, the arithmetic realisation of the real-number rules (rules R7 and R10), as the operations the
rules use on the values of the registers.  A register is 64 bits wide whatever the realisation is,
since the state is plain data (assumption log entry 1). -/
structure Arith where
  /-- `f32(w)`, the binary32 value of a word (rules R9 and R11) -/
  ofF32 : Word → F64
  /-- `r32(v)`, the value rounded to binary32 as a word (rules R9 and R11) -/
  r32 : F64 → Word
  /-- the value is a real number, neither an overflow nor undefined (rule R23) -/
  isFinite : F64 → Bool
  /-- the decimal literal `n / 10 ^ k` (rule R8) -/
  dec : Nat → Nat → F64
  /-- the integer `n` -/
  ofNat : Nat → F64
  /-- `0` -/
  zero : F64
  /-- `1` -/
  one : F64
  /-- `pi` (rule R13) -/
  pi : F64
  /-- `-x` -/
  neg : F64 → F64
  /-- `|x|` -/
  abs : F64 → F64
  /-- `x + y` -/
  add : F64 → F64 → F64
  /-- `x - y` -/
  sub : F64 → F64 → F64
  /-- `x · y` -/
  mul : F64 → F64 → F64
  /-- `x / y` -/
  div : F64 → F64 → F64
  /-- `x < y` -/
  lt : F64 → F64 → Bool
  /-- `x >= y` -/
  ge : F64 → F64 → Bool
  /-- `max(x, y)` -/
  max : F64 → F64 → F64
  /-- `min(x, y)` -/
  min : F64 → F64 → F64
  /-- `floor(x)` (rule R13) -/
  floor : F64 → F64
  /-- `min(lim, max(1, ceil(x)))` as a count (rules R13, R15 and R118) -/
  ceilCount : Nat → F64 → Nat
  /-- `exp(x)` (rule R13) -/
  exp : F64 → F64
  /-- `tanh(x)` -/
  tanh : F64 → F64
  /-- `sqrt(x)` -/
  sqrt : F64 → F64
  /-- `x ^ y` -/
  pow : F64 → F64 → F64

/-- `RESET_PARAMS` (rule R7, rule R40 of 10_state.md): the reset values of the parameter registers. -/
structure ResetParams where
  /-- `OSC.frequency` -/
  frequency : F64
  /-- `OSC.targetFrequency` -/
  targetFrequency : F64
  /-- `OSC.blend` -/
  blend : F64
  /-- `OSC.subBlend` -/
  subBlend : F64
  /-- `OSC.jc303` -/
  jc303 : Bool
  /-- `AENV.attackMs` -/
  attackMs : F64
  /-- `AENV.decayMs` -/
  decayMs : F64
  /-- `AENV.releaseMs` -/
  releaseMs : F64
  /-- `MENV.decayMs` -/
  modDecayMs : F64
  /-- `FILT.cutoff` -/
  cutoff : F64
  /-- `FILT.resonance` -/
  resonance : F64
  /-- `FILT.envMod` -/
  envMod : F64
  /-- `FILT.fmAmount` -/
  fmAmount : F64
deriving DecidableEq, Repr

/-- The thirteen `OPEN` parameters of rule R7. -/
structure Params where
  /-- `NUM`, the arithmetic -/
  num : Arith
  /-- `SR_MIN`, the least sample rate a unit stores, in Hz -/
  srMin : F64
  /-- `FREQ_MIN`, the least oscillator frequency, in Hz -/
  freqMin : F64
  /-- `T_MIN_MS`, the floor of decay, release, glide and modulation-decay times, in ms -/
  tMinMs : F64
  /-- `FM_EPS`, the threshold above which the FM amount is non-negligible -/
  fmEps : F64
  /-- `GLIDE_CNT_MAX`, the largest glide step count -/
  glideCntMax : Nat
  /-- `BLEP(t, dt)` (rule R111) -/
  blep : F64 → F64 → F64
  /-- `COEF(fc, sr, rs)` (rule R201) -/
  coef : F64 → F64 → F64 → Coefs
  /-- `STAGE(y0, y, b0)` (rule R202) -/
  stage : F64 → Stages → F64 → Stages
  /-- `HPF(sr, s, v)`, giving `(h, s')` (rule R203) -/
  hpf : F64 → F64 → F64 → F64 × F64
  /-- `SAT` (rule R204) -/
  sat : F64 → F64
  /-- `ACCENT(acc, env, envMod, cutoff)` (rule R205) -/
  accent : F64 → F64 → F64 → F64 → F64
  /-- `RESET_PARAMS` (rule R40 of 10_state.md) -/
  reset : ResetParams

namespace Config

/-- FREE VALUE (assumption log entry 2, DESIGN CHOICE): which operand `max(a, b)` answers where
neither is less than the other and their patterns differ, that is, for zeros of opposite sign and
for a NaN operand.  The spec states `max` over the reals only (rules R10 and R12).  `true` is the
first operand. -/
opaque maxPicksFirst (a b : F64) : Bool

/-- FREE VALUE (assumption log entry 2, DESIGN CHOICE): the same for `min(a, b)`. -/
opaque minPicksFirst (a b : F64) : Bool

end Config

end Sys2Proof
end

