-- ==== Sys2Proof/Machine/Num.lean ====
section
/-! DEFINITION. The default arithmetic `NUM` of rule R7 (00_scope.md): IEEE-754 binary64 with round
to nearest even, and the conversions from and to the binary32 port words (rule R9).  Every operation
computes its exact result and rounds once, by `roundMag`. -/

namespace Sys2Proof

namespace F64

/-- The sign bit, bit 63. -/
def isNeg (x : F64) : Bool := x.bits.toNat / 2 ^ 63 == 1

/-- The exponent field, bits 62:52. -/
def expo (x : F64) : Nat := x.bits.toNat / 2 ^ 52 % 2 ^ 11

/-- The fraction field, bits 51:0. -/
def frac52 (x : F64) : Nat := x.bits.toNat % 2 ^ 52

/-- Neither an infinity nor a NaN. -/
def isFinite (x : F64) : Bool := x.expo != 2047

/-- A NaN. -/
def isNaN (x : F64) : Bool := x.expo == 2047 && x.frac52 != 0

/-- A zero of either sign. -/
def isZero (x : F64) : Bool := x.bits.toNat % 2 ^ 63 == 0

/-- The integer significand: a finite `x` is `± mant x * 2 ^ (scale x - 1075)`. -/
def mant (x : F64) : Nat := if x.expo = 0 then x.frac52 else 2 ^ 52 + x.frac52

/-- The biased scale of the significand, 1 for zeros and subnormals. -/
def scale (x : F64) : Nat := if x.expo = 0 then 1 else x.expo

/-- The real number a finite value stands for (rules R9 and R10).  Statements are written with it;
no operation computes with it. -/
def toRat (x : F64) : ℚ :=
  (if x.isNeg then -1 else 1) * (x.mant : ℚ) * (2 : ℚ) ^ ((x.scale : ℤ) - 1075)

end F64

/-- `n / m` rounded to the nearest integer, ties to even (`0 < m`). -/
def nearestQuot (n m : Nat) : Nat :=
  let q := n / m
  let r := n % m
  if m < 2 * r ∨ (2 * r = m ∧ q % 2 = 1) then q + 1 else q

/-- The exponent of the unit in the last place of `p / d`, counted from the format's least one: the
unit is `2 ^ (unitExp - u)`, and 0 is the scale of the subnormals. -/
def unitExp (f u p d : Nat) : Nat :=
  let lp := Nat.log2 p
  let ld := Nat.log2 d
  (if d <<< (lp - ld) ≤ p <<< (ld - lp) then lp + u - ld else lp + u - ld - 1) - f

/-- The magnitude pattern of the rational `p / d` (`0 < d`) rounded to nearest, ties to even, in a
binary format with `f` fraction bits whose least positive value is `2 ^ -u` and whose infinity is the
pattern `top`.  It is `f = 52`, `u = 1074` for binary64 and `f = 23`, `u = 149` for binary32.  A
rounding up to the next power of two carries into the exponent field by itself. -/
def roundMag (f u top p d : Nat) : Nat :=
  if p = 0 then 0
  else
    let e := unitExp f u p d
    min top (e <<< f + nearestQuot (p <<< (u - e)) (d <<< (e - u)))

/-- binary64's infinity as a magnitude pattern. -/
def top64 : Nat := 2047 * 2 ^ 52

/-- binary32's infinity as a magnitude pattern. -/
def top32 : Nat := 255 * 2 ^ 23

namespace F64

/-- A value from its sign and its magnitude pattern. -/
def pack (s : Bool) (m : Nat) : F64 := ⟨BitVec.ofNat 64 ((if s then 2 ^ 63 else 0) + m)⟩

/-- `± p / d` rounded to binary64 (`0 < d`). -/
def round (s : Bool) (p d : Nat) : F64 := pack s (roundMag 52 1074 top64 p d)

/-- `± m * 2 ^ (a - b)` rounded to binary64. -/
def roundScaled (s : Bool) (m a b : Nat) : F64 := round s (m <<< (a - b)) (1 <<< (b - a))

/-- `+0` -/
def zero : F64 := ⟨0x0000000000000000#64⟩

/-- `1` -/
def one : F64 := ⟨0x3FF0000000000000#64⟩

/-- The NaN of the model; only its being a NaN is ever read (a NaN is emitted as `0x7FC00000`,
rule R262). -/
def nan : F64 := ⟨0x7FF8000000000000#64⟩

/-- `± infinity` -/
def inf (s : Bool) : F64 := pack s top64

/-- The decimal literal `n / 10 ^ k`, rounded to `NUM` (rule R8: the literals are used as given). -/
def dec (n k : Nat) : F64 := round false n (10 ^ k)

/-- The integer `n` converted to `NUM`. -/
def ofNat (n : Nat) : F64 := round false n 1

/-- Negation: the sign bit flips. -/
def neg (x : F64) : F64 := pack (!x.isNeg) (x.bits.toNat % 2 ^ 63)

/-- Absolute value: the sign bit is cleared. -/
def abs (x : F64) : F64 := pack false (x.bits.toNat % 2 ^ 63)

/-- The signed significand shifted left by `sh`. -/
def signedMant (x : F64) (sh : Nat) : Int :=
  if x.isNeg then -((x.mant <<< sh : Nat) : Int) else ((x.mant <<< sh : Nat) : Int)

/-- Addition.  A sum that is exactly zero is `+0` unless both operands are negative. -/
def add (x y : F64) : F64 :=
  if x.isNaN || y.isNaN then nan
  else if x.isFinite && y.isFinite then
    let e := min x.scale y.scale
    let n := x.signedMant (x.scale - e) + y.signedMant (y.scale - e)
    if n = 0 then pack (x.isNeg && y.isNeg) 0 else roundScaled (n < 0) n.natAbs e 1075
  else if x.isFinite then y
  else if y.isFinite || x.isNeg == y.isNeg then x
  else nan

/-- Subtraction. -/
def sub (x y : F64) : F64 := add x (neg y)

/-- Multiplication.  A product of zero and an infinity is a NaN. -/
def mul (x y : F64) : F64 :=
  if x.isNaN || y.isNaN then nan
  else if x.isFinite && y.isFinite then
    roundScaled (x.isNeg != y.isNeg) (x.mant * y.mant) (x.scale + y.scale) 2150
  else if x.isZero || y.isZero then nan
  else inf (x.isNeg != y.isNeg)

/-- Division.  Rule R16 (00_scope.md) shows that no command divides by zero; the IEEE-754 results of
the zero and infinite cases are here because the operation is total (PRESUMED,
assumption log entry 12). -/
def div (x y : F64) : F64 :=
  if x.isNaN || y.isNaN then nan
  else if x.isFinite && y.isFinite then
    if y.isZero then (if x.isZero then nan else inf (x.isNeg != y.isNeg))
    else round (x.isNeg != y.isNeg) (x.mant <<< (x.scale - y.scale)) (y.mant <<< (y.scale - x.scale))
  else if x.isFinite then pack (x.isNeg != y.isNeg) 0
  else if y.isFinite then inf (x.isNeg != y.isNeg)
  else nan

/-- The pattern read as a sign and magnitude integer: it orders the values that are not NaN. -/
def orderKey (x : F64) : Int :=
  if x.isNeg then -((x.bits.toNat % 2 ^ 63 : Nat) : Int) else ((x.bits.toNat % 2 ^ 63 : Nat) : Int)

/-- `x < y`; false where an operand is a NaN. -/
def lt (x y : F64) : Bool := !x.isNaN && !y.isNaN && decide (x.orderKey < y.orderKey)

/-- `x >= y`; false where an operand is a NaN. -/
def ge (x y : F64) : Bool := !x.isNaN && !y.isNaN && decide (y.orderKey ≤ x.orderKey)

/-- `max(a, b)`.  Where neither operand is less than the other and their patterns differ, the answer
is one of them, and which one is free (assumption log entry 2). -/
def max (a b : F64) : F64 :=
  if lt a b then b
  else if lt b a then a
  else if a = b then a
  else if Config.maxPicksFirst a b then a
  else b

/-- `min(a, b)`, as `max`. -/
def min (a b : F64) : F64 :=
  if lt a b then a
  else if lt b a then b
  else if a = b then a
  else if Config.minPicksFirst a b then a
  else b

/-- `clamp(x, lo, hi) = min(max(x, lo), hi)`; `lo > hi` gives `hi` (rule R12). -/
def clamp (x lo hi : F64) : F64 := min (max x lo) hi

/-- The integer part towards minus infinity of a finite value. -/
def floorInt (x : F64) : Int := x.signedMant (x.scale - 1075) / ((1 <<< (1075 - x.scale) : Nat) : Int)

/-- `floor(x)` in `NUM`, exact; a zero result keeps the operand's sign (PRESUMED,
assumption log entry 11). -/
def floor (x : F64) : F64 :=
  if x.isFinite then
    let n := x.floorInt
    if n = 0 then pack x.isNeg 0 else round (n < 0) n.natAbs 1
  else x

/-- `frac(x) = x - floor(x)` (rule R13). -/
def frac (x : F64) : F64 := sub x (floor x)

/-- `min(lim, max(1, ceil(x)))` of rules R15 and R118, as a count.  An infinite `x` saturates
(DEDUCED, assumption log entry 12). -/
def ceilCount (lim : Nat) (x : F64) : Nat :=
  if x.isFinite then Nat.min lim (Nat.max 1 (-(neg x).floorInt).toNat)
  else if x.isNeg || x.isNaN then Nat.min lim 1
  else lim

/-- `f32(w)`: the binary32 value of a word, converted exactly (rules R9 and R83). -/
def ofF32 (w : Word) : F64 :=
  let s := w.toNat / 2 ^ 31 == 1
  let e := w.toNat / 2 ^ 23 % 2 ^ 8
  let m := w.toNat % 2 ^ 23
  if e = 255 then (if m = 0 then inf s else nan)
  else if e = 0 then roundScaled s m 1 150
  else roundScaled s (2 ^ 23 + m) e 150

/-- `r32(v)`: `v` rounded to binary32 (round to nearest even) as a word; a NaN is `0x7FC00000`
(rules R9, R11 and R262). -/
def r32 (v : F64) : Word :=
  if v.isNaN then 0x7FC00000#32
  else
    let m := if v.isFinite
      then roundMag 23 149 top32 (v.mant <<< (v.scale - 1075)) (1 <<< (1075 - v.scale))
      else top32
    BitVec.ofNat 32 ((if v.isNeg then 2 ^ 31 else 0) + m)

/-- The binary32 rounding of `v` is an infinity or a NaN (rules R261 and R263: ERR_OVERFLOW). -/
def overflows32 (v : F64) : Bool := (r32 v).toNat / 2 ^ 23 % 2 ^ 8 == 255

/-- `pi` rounded to `NUM` (rule R13). -/
def pi : F64 := ⟨0x400921FB54442D18#64⟩

end F64

/-! ### The operations that every realisation of `NUM` shares -/

/-- `frac(x) = x - floor(x)` in a realisation of `NUM` (rule R13). -/
def Arith.frac (N : Arith) (x : F64) : F64 := N.sub x (N.floor x)

/-- `clamp(x, lo, hi) = min(max(x, lo), hi)` in a realisation of `NUM` (rule R12). -/
def Arith.clamp (N : Arith) (x lo hi : F64) : F64 := N.min (N.max x lo) hi

/-- The word emitted for `v` is an infinity or a NaN (rules R261 and R263: ERR_OVERFLOW). -/
def Arith.overflows32 (N : Arith) (v : F64) : Bool := (N.r32 v).toNat / 2 ^ 23 % 2 ^ 8 == 255

end Sys2Proof
end

