-- ==== Sys2Proof/Machine/Elementary.lean ====
section
/-! DEFINITION. `exp`, `pow`, `tanh` and `sqrt` of the default `NUM`, correctly rounded (rule R7 of
00_scope.md).  Each real function is enclosed between two rationals by fixed-point arithmetic at `P`
fractional bits, every operation of the lower bound rounding down and of the upper bound rounding
up; where both bounds round to one binary64 value, that value is the correctly rounded result.  The
precision is raised until they agree (assumption log entry 3). -/

namespace Sys2Proof

/-- `n` further terms of the exponential series at scale `2 ^ P`, from term `i` on.  With `dir = 0`
every term is rounded down; with `dir = 1` it is rounded up, and the last term is added once more
for the tail. -/
def expSeries (P r dir : Nat) : Nat → Nat → Nat → Nat → Nat
  | 0, _, term, sum => sum + dir * term
  | n + 1, i, term, sum =>
    let term' := term * r / (i <<< P) + dir
    expSeries P r dir n (i + 1) term' (sum + term')

/-- `n` squarings at scale `2 ^ P`, rounded down (`dir = 0`) or up (`dir = 1`). -/
def squarings (P dir : Nat) : Nat → Nat → Nat
  | 0, v => v
  | n + 1, v => squarings P dir n (((v * v) >>> P) + dir)

/-- A bound on `2 ^ P * exp(p / d)` for `0 ≤ p / d`, from below (`dir = 0`) or above (`dir = 1`):
the argument is halved until it is below `2 ^ -7`, and the series' value squared as often. -/
def expBound (dir P p d : Nat) : Nat :=
  let j := Nat.log2 (p / d + 1) + 8
  let r := (p <<< P) / (d <<< j) + dir
  squarings P dir j (expSeries P r dir (P / 8) 1 (1 <<< P) (1 <<< P))

/-- A bound on `exp(n / d)` as a numerator and a denominator, for a signed exponent. -/
def expFrac (dir P : Nat) (n : Int) (d : Nat) : Nat × Nat :=
  if n < 0 then (1 <<< P, expBound (1 - dir) P n.natAbs d) else (expBound dir P n.natAbs d, 1 <<< P)

/-- `n` terms of `atanh z = z + z^3 / 3 + ...` at scale `2 ^ P`, where `z2` is `z^2` and `power` the
current odd power of `z`. -/
def atanhSeries (P z2 dir : Nat) : Nat → Nat → Nat → Nat → Nat
  | 0, _, power, sum => sum + dir * power
  | n + 1, i, power, sum =>
    let power' := ((power * z2) >>> P) + dir
    atanhSeries P z2 dir n (i + 1) power' (sum + power' / (2 * i + 1) + dir)

/-- A bound on `2 ^ P * atanh(a / b)` for `0 ≤ a / b ≤ 1 / 3`. -/
def atanhBound (dir P a b : Nat) : Nat :=
  let z := (a <<< P) / b + dir
  let z2 := ((z * z) >>> P) + dir
  atanhSeries P z2 dir (P / 3) 1 z z

/-- A bound on `2 ^ P * ln(p / d)` for positive `p / d`, from below (`dir = 0`) or above: with
`p / d = 2 ^ k * m` and `1 ≤ m < 2`, it is `2 * atanh((m - 1) / (m + 1)) + 2 * k * atanh(1 / 3)`. -/
def lnBound (dir P p d : Nat) : Int :=
  let lp := Nat.log2 p
  let ld := Nat.log2 d
  let k : Int := if d <<< (lp - ld) ≤ p <<< (ld - lp) then (lp : Int) - ld else (lp : Int) - ld - 1
  let a := p <<< (-k).toNat
  let b := d <<< k.toNat
  let dirK := if k < 0 then 1 - dir else dir
  2 * (atanhBound dir P (a - b) (a + b) : Int) + 2 * k * (atanhBound dirK P 1 3 : Int)

/-- The common rounding of the two bounds `enc 0 P` and `enc 1 P`, at the first precision of the
list where they agree.  Where the last ones still differ, the value lies at the midpoint between
two neighbours, and the even one is taken. -/
def agree (enc : Nat → Nat → Nat × Nat) : List Nat → Nat
  | [] => 0
  | P :: more =>
    let lo := roundMag 52 1074 top64 (enc 0 P).1 (enc 0 P).2
    let hi := roundMag 52 1074 top64 (enc 1 P).1 (enc 1 P).2
    if lo = hi then lo
    else
      match more with
      | [] => if lo % 2 = 0 then lo else hi
      | _ :: _ => agree enc more

/-- The working precisions, in fractional bits. -/
def precisions : List Nat := [128, 256, 512, 1024]

namespace F64

/-- The numerator of the magnitude of a finite value. -/
def num (x : F64) : Nat := x.mant <<< (x.scale - 1075)

/-- The denominator of the magnitude of a finite value. -/
def den (x : F64) : Nat := 1 <<< (1075 - x.scale)

/-- `exp(x)`, correctly rounded.  Beyond 800 in magnitude the result has overflowed or underflowed. -/
def exp (x : F64) : F64 :=
  if x.isNaN then nan
  else if x.isZero then one
  else if !x.isFinite || decide (800 * x.den ≤ x.num) then (if x.isNeg then zero else inf false)
  else
    let n : Int := if x.isNeg then -(x.num : Int) else x.num
    pack false (agree (fun dir P => expFrac dir P n x.den) precisions)

/-- A bound on `tanh(p / d)` for positive `p / d` as a numerator and a denominator: below `2 ^ -28`
it is `x - x^3 < tanh x < x`, above it `(E - 1) / (E + 1)` with `E = exp(2 x)`. -/
def tanhFrac (dir P p d : Nat) : Nat × Nat :=
  if p <<< 28 < d then (if dir = 0 then (p * (d * d - p * p), d * (d * d)) else (p, d))
  else
    let e := expBound dir P (2 * p) d
    (e - 1 <<< P, e + 1 <<< P)

/-- `tanh(x)`, correctly rounded.  From 32 up the result rounds to 1. -/
def tanh (x : F64) : F64 :=
  if x.isNaN then nan
  else if x.isZero then x
  else if !x.isFinite || decide (32 * x.den ≤ x.num) then pack x.isNeg one.bits.toNat
  else pack x.isNeg (agree (fun dir P => tanhFrac dir P x.num x.den) precisions)

/-- `pow(a, b)`, correctly rounded, for the exponents `0 < b <= 1` that rule R118 raises to: there
`a^b = exp(b * ln a)` is never a midpoint.  The results for a base that is not positive and finite
are IEEE-754's (PRESUMED, assumption log entry 12); rule R26 keeps the base positive. -/
def pow (a b : F64) : F64 :=
  if a.isNaN || b.isNaN then nan
  else if b = one then a
  else if a.isZero then zero
  else if !a.isFinite then inf false
  else if a.isNeg then nan
  else
    pack false (agree (fun dir P =>
      expFrac dir P (lnBound dir P a.num a.den * (b.num : Int)) (b.den <<< P)) precisions)

/-- Integer square root by `n` binary digits from the root `r` found so far. -/
def isqrtDigits (v : Nat) : Nat → Nat → Nat
  | 0, r => r
  | n + 1, r =>
    let r' := r + 2 ^ n
    if r' * r' ≤ v then isqrtDigits v n r' else isqrtDigits v n r

/-- `sqrt(x)`, correctly rounded: the root of the significand scaled to an even exponent, with one
sticky bit below it. -/
def sqrt (x : F64) : F64 :=
  if x.isNaN then nan
  else if x.isZero then x
  else if x.isNeg then nan
  else if !x.isFinite then x
  else
    let v := x.mant <<< (110 + (x.scale + 1) % 2)
    let r := isqrtDigits v 84 0
    let sticky := if r * r = v then 0 else 1
    let e := x.scale - (x.scale + 1) % 2
    -- x = v * 2 ^ (e - 1185) with e - 1185 even, so sqrt x = sqrt v * 2 ^ ((e - 1185) / 2)
    roundScaled false (2 * r + sticky) ((e + 1185) / 2) 1186

end F64

end Sys2Proof
end

