-- ==== Sys2Proof/Machine/Defaults.lean ====
section
/-! DEFINITION. The values the spec decides for the `OPEN` parameters of rule R7 (00_scope.md): the
default `NUM`, and over any `NUM` the default realisations of `BLEP`, `COEF`, `STAGE`, `HPF`, `SAT` and
`ACCENT`, operation by operation in the order of the pseudocode (rule R10). -/

namespace Sys2Proof.Machine

/-- The default `NUM` of rule R7: IEEE-754 binary64, round to nearest even. -/
def binary64 : Arith where
  ofF32 := F64.ofF32
  r32 := F64.r32
  isFinite := F64.isFinite
  dec := F64.dec
  ofNat := F64.ofNat
  zero := F64.zero
  one := F64.one
  pi := F64.pi
  neg := F64.neg
  abs := F64.abs
  add := F64.add
  sub := F64.sub
  mul := F64.mul
  div := F64.div
  lt := F64.lt
  ge := F64.ge
  max := F64.max
  min := F64.min
  floor := F64.floor
  ceilCount := F64.ceilCount
  exp := F64.exp
  tanh := F64.tanh
  sqrt := F64.sqrt
  pow := F64.pow

/-- `BLEP(t, dt)`, the two-sample polynomial of rule R111 (41_oscillator.md).  Where both conditions
hold, the first one wins. -/
def blepDefault (N : Arith) (t dt : F64) : F64 :=
  if N.lt t dt then
    let x := N.div t dt
    N.sub (N.sub (N.add x x) (N.mul x x)) N.one
  else if N.lt (N.sub N.one dt) t then
    let x := N.div (N.sub t N.one) dt
    N.add (N.add (N.add (N.mul x x) x) x) N.one
  else N.zero

/-- `COEF(fc, sr, rs)` of rule R201 (44_ladder_filter.md), the diode-ladder approximation. -/
def coefDefault (N : Arith) (fc sr rs : F64) : Coefs :=
  let fx := N.div fc (N.mul sr (N.sqrt (N.ofNat 2)))
  let b0 := N.div (N.add (N.dec 45522346 11) (N.mul (N.dec 61922189 7) fx))
    (N.add (N.add N.one (N.mul (N.dec 12358354 6) fx)) (N.mul (N.mul (N.dec 44156345 7) fx) fx))
  let p1 := N.add fx (N.dec 71986997 4)
  let p2 := N.sub (N.mul fx p1) (N.dec 58377917 4)
  let p3 := N.sub (N.mul fx p2) (N.dec 47647308 5)
  let p4 := N.add (N.mul fx p3) (N.dec 61495611 5)
  let p5 := N.add (N.mul fx p4) (N.dec 21387126 5)
  let k0 := N.add (N.mul fx p5) (N.dec 16998792 6)
  let g := N.mul (N.add (N.mul (N.sub (N.div k0 (N.ofNat 17)) N.one) rs) N.one) (N.add N.one rs)
  let k := N.mul k0 rs
  { b0 := b0, k := k, g := g }

/-- `STAGE(y0, y1, y2, y3, y4, b0)` of rule R202: each stage reads the new value of the stage before
it and the old value of the stage after it. -/
def stageDefault (N : Arith) (y0 : F64) (y : Stages) (b0 : F64) : Stages :=
  let two := N.ofNat 2
  let y1' := N.add y.y1 (N.mul (N.mul two b0) (N.add (N.sub y0 y.y1) y.y2))
  let y2' := N.add y.y2 (N.mul b0 (N.add (N.sub y1' (N.mul two y.y2)) y.y3))
  let y3' := N.add y.y3 (N.mul b0 (N.add (N.sub y2' (N.mul two y.y3)) y.y4))
  let y4' := N.add y.y4 (N.mul b0 (N.sub y3' (N.mul two y.y4)))
  { y1 := y1', y2 := y2', y3 := y3', y4 := y4' }

/-- `HPF(sr, s, v)` of rule R203: the input minus a leaky integrator at 150 Hz, giving `(h, s')`. -/
def hpfDefault (N : Arith) (sr s v : F64) : F64 × F64 :=
  let a := N.sub N.one (N.exp (N.div (N.mul (N.mul (N.neg (N.ofNat 2)) N.pi) (N.ofNat 150)) sr))
  let h := N.sub v s
  (h, N.add s (N.mul a h))

/-- `SAT = tanh` (rule R204). -/
def satDefault (N : Arith) (v : F64) : F64 := N.tanh v

/-- `ACCENT = 0` (rule R205). -/
def accentDefault (N : Arith) (_acc _env _envMod _cutoff : F64) : F64 := N.zero

/-- The reset values of the parameter registers (rule R40 of 10_state.md; DESIGN CHOICE,
assumption log entry 10). -/
def resetDefault (N : Arith) : ResetParams where
  frequency := N.ofNat 440
  targetFrequency := N.ofNat 440
  blend := N.one
  subBlend := N.zero
  jc303 := false
  attackMs := N.ofNat 3
  decayMs := N.ofNat 200
  releaseMs := N.ofNat 20
  modDecayMs := N.ofNat 200
  cutoff := N.ofNat 800
  resonance := N.zero
  envMod := N.zero
  fmAmount := N.zero

/-- The default column of rule R7 over any realisation of `NUM`. -/
def defaultsOver (N : Arith) : Params where
  num := N
  srMin := N.one
  freqMin := N.dec 1 2
  tMinMs := N.dec 1 3
  fmEps := N.zero
  glideCntMax := 2 ^ 32 - 1
  blep := blepDefault N
  coef := coefDefault N
  stage := stageDefault N
  hpf := hpfDefault N
  sat := satDefault N
  accent := accentDefault N
  reset := resetDefault N

/-- The default column of rule R7, the parameters of `exec`, `step` and `State.reset` (DESIGN CHOICE,
assumption log entry 1). -/
def params : Params := defaultsOver binary64

end Sys2Proof.Machine
end

