-- ==== Sys2Proof/Machine/State.lean ====
section
/-! DEFINITION. The machine's state, all of 10_state.md, as plain data; the state after reset; and
the reasons a step could stop. -/

namespace Sys2Proof.Machine

/-- `AENV.stage` (rules R28 and R29). -/
inductive Stage where
  /-- 0 -/
  | idle
  /-- 1 -/
  | attack
  /-- 2 -/
  | decay
  /-- 3 -/
  | release
deriving DecidableEq, Repr

/-- The oscillator's registers, state indices 1 to 11 (rule R24). -/
structure Osc where
  /-- index 1 -/
  phase : F64
  /-- index 2 -/
  subPhase : F64
  /-- index 3, Hz -/
  frequency : F64
  /-- index 4, Hz -/
  targetFrequency : F64
  /-- index 5, an unsigned count in `0 .. GLIDE_CNT_MAX` -/
  glideSteps : Nat
  /-- index 6 -/
  glideMult : F64
  /-- index 7, 0 = square, 1 = saw -/
  blend : F64
  /-- index 8 -/
  subBlend : F64
  /-- index 9, 0 or 1 -/
  jc303 : Bool
  /-- index 10, Hz; `none` is `unset` (rule R22) -/
  sampleRate : Option F64
  /-- index 11, the last oscillator sample -/
  out : F64
deriving DecidableEq, Repr

/-- The amplitude envelope's registers, state indices 16 to 25 (rule R28). -/
structure Aenv where
  /-- index 16 -/
  stage : Stage
  /-- index 17 -/
  level : F64
  /-- index 18, 0 or 1 -/
  gate : Bool
  /-- index 19, ms -/
  attackMs : F64
  /-- index 20, ms -/
  decayMs : F64
  /-- index 21, ms -/
  releaseMs : F64
  /-- index 22, Hz; `none` is `unset` (rule R22) -/
  sampleRate : Option F64
  /-- index 23 -/
  attackInc : F64
  /-- index 24 -/
  decayCoef : F64
  /-- index 25 -/
  releaseCoef : F64
deriving DecidableEq, Repr

/-- The modulation envelope's registers, state indices 32 to 35 (rule R32). -/
structure Menv where
  /-- index 32 -/
  level : F64
  /-- index 33, ms -/
  decayMs : F64
  /-- index 34, Hz; `none` is `unset` (rule R22) -/
  sampleRate : Option F64
  /-- index 35 -/
  decayCoef : F64
deriving DecidableEq, Repr

/-- The filter's registers, state indices 48 to 62 (rule R34). -/
structure Filt where
  /-- indices 48 to 51, the stage accumulators `y[1..4]` (rule R35) -/
  y : Stages
  /-- index 52, the feedback highpass accumulator -/
  hpState : F64
  /-- index 53, Hz -/
  cutoff : F64
  /-- index 54 -/
  resonance : F64
  /-- index 55, Hz per unit of envelope level -/
  envMod : F64
  /-- index 56 -/
  fmAmount : F64
  /-- index 57, Hz; `none` is `unset` (rule R22) -/
  sampleRate : Option F64
  /-- index 58, the cutoff that the coefficients were computed from, Hz -/
  fc : F64
  /-- indices 59 to 61, `(b0, k, g)` -/
  coefs : Coefs
  /-- index 62, the last filtered sample -/
  out : F64
deriving DecidableEq, Repr

/-- The stored, sticky bits of `CORE.STATUS`, bits 7:0 (rule R38). -/
structure Sticky where
  /-- bit 0, `ERR` -/
  err : Bool
  /-- bit 1, `MULTI` -/
  multi : Bool
  /-- bits 7:4, `CAUSE` -/
  cause : BitVec 4
deriving DecidableEq, Repr

/-- The framing position within the current command (rules R21 and R82). -/
inductive Framing where
  /-- waiting for a header -/
  | waiting
  /-- a header and the operand words collected so far, in arrival order: "collecting operand `i` of
  `n`" with `i = ops.length` and `n = header[10:8]` -/
  | collecting (header : Word) (ops : List Word)
deriving DecidableEq, Repr

/-- The error codes 1 to 6 of rule R261 (60_exceptions.md). -/
inductive ErrCode where
  /-- 1, ERR_OPCODE -/
  | opcode
  /-- 2, ERR_RESERVED -/
  | reserved
  /-- 3, ERR_NONFINITE -/
  | nonfinite
  /-- 4, ERR_NO_SR -/
  | noSr
  /-- 5, ERR_OPERAND -/
  | operand
  /-- 6, ERR_OVERFLOW -/
  | overflow
deriving DecidableEq, Repr

/-- What PEEK reads from a register: an integer, or a real that is rounded on output (rule R243). -/
inductive RegValue where
  /-- an integer register's word -/
  | u32 (w : Word)
  /-- a real register's value -/
  | real (v : F64)
deriving DecidableEq, Repr

/-- The block's whole state.  It has no general register, no program counter and no memory (rules
R20, R21 and R60). -/
structure State where
  /-- unit OSC -/
  osc : Osc
  /-- unit AENV -/
  aenv : Aenv
  /-- unit MENV -/
  menv : Menv
  /-- unit FILT -/
  filt : Filt
  /-- the stored bits of `CORE.STATUS`, index 0 -/
  sticky : Sticky
  /-- the framing position -/
  framing : Framing
  /-- the response port, front first (rule R39) -/
  resp : List Word
  /-- the words the host has offered on the command port and the block has not yet accepted, front
  first (rule R66).  An input of the machine: the host appends to it. -/
  cmdPort : List Word
  /-- the level of the reset input, true while asserted (rule R290).  An input of the machine. -/
  resetIn : Bool
deriving DecidableEq, Repr

/-- The block takes no trap and no fault: every error is recorded in STATUS and the next command is
processed (rules R260 and R266).  No step ends in a fault, so the type has no constructor (DEDUCED,
assumption log entry 16). -/
inductive Fault
deriving DecidableEq, Repr

/-- Why a command has no meaning in the model. -/
inductive Refusal where
  /-- raised by an arm of `exec` for a command that has no meaning yet.  Safe: nothing can be proved
  of a run past it.  No arm raises it. -/
  | notModelled (mnemonic : String)
deriving DecidableEq, Repr

/-- The outcome of a step of this machine. -/
abbrev Result := Host.Outcome State Fault Refusal

/-- The state after the reset input is released, for given parameters (rules R40 and R290):
the dynamic state 0, Idle and `unset`, the derived coefficients 0, the ports empty. -/
def State.resetWith (P : Params) : State where
  osc :=
    { phase := P.num.zero, subPhase := P.num.zero, frequency := P.reset.frequency,
      targetFrequency := P.reset.targetFrequency, glideSteps := 0, glideMult := P.num.one,
      blend := P.reset.blend, subBlend := P.reset.subBlend, jc303 := P.reset.jc303, sampleRate := none, out := P.num.zero }
  aenv :=
    { stage := .idle, level := P.num.zero, gate := false, attackMs := P.reset.attackMs,
      decayMs := P.reset.decayMs, releaseMs := P.reset.releaseMs, sampleRate := none,
      attackInc := P.num.zero, decayCoef := P.num.zero, releaseCoef := P.num.zero }
  menv :=
    { level := P.num.zero, decayMs := P.reset.modDecayMs, sampleRate := none,
      decayCoef := P.num.zero }
  filt :=
    { y := { y1 := P.num.zero, y2 := P.num.zero, y3 := P.num.zero, y4 := P.num.zero },
      hpState := P.num.zero, cutoff := P.reset.cutoff, resonance := P.reset.resonance,
      envMod := P.reset.envMod, fmAmount := P.reset.fmAmount, sampleRate := none, fc := P.num.zero,
      coefs := { b0 := P.num.zero, k := P.num.zero, g := P.num.zero }, out := P.num.zero }
  sticky := { err := false, multi := false, cause := 0#4 }
  framing := .waiting
  resp := []
  cmdPort := []
  resetIn := false

/-- The machine right after reset, every field at its value of rule R40; nothing offered on the
command port. -/
def State.reset : State := State.resetWith params

end Sys2Proof.Machine
end

