-- ==== Sys2Proof/Machine/Flags.lean ====
section
/-! DEFINITION. `CORE.STATUS`, the block's only status register (rule R38 of 10_state.md): the stage
numbers, the error codes, the recording of an error in the sticky bits, and the whole word. -/

namespace Sys2Proof.Machine

/-- The number of a stage (rule R29). -/
def stageCode : Stage → BitVec 2
  | .idle => 0#2
  | .attack => 1#2
  | .decay => 2#2
  | .release => 3#2

/-- The value an error writes to `STATUS.CAUSE` (rule R261). -/
def errCode : ErrCode → BitVec 4
  | .opcode => 1#4
  | .reserved => 2#4
  | .nonfinite => 3#4
  | .noSr => 4#4
  | .operand => 5#4
  | .overflow => 6#4

/-- `record(code)` of rule R262: the first error sets `ERR` and `CAUSE`; a later one sets `MULTI`
and keeps the first code. -/
def recordError (e : ErrCode) (t : Sticky) : Sticky :=
  if t.err then { t with multi := true } else { t with err := true, cause := errCode e }

/-- The STATUS word of rule R38: the sticky bits, and the views of unit state. -/
def statusWord (s : State) : Word :=
  0#15 ++ BitVec.ofBool s.osc.jc303 ++ BitVec.ofBool (decide (0 < s.osc.glideSteps))
    ++ BitVec.ofBool s.aenv.gate ++ stageCode s.aenv.stage
    ++ BitVec.ofBool s.filt.sampleRate.isSome ++ BitVec.ofBool s.menv.sampleRate.isSome
    ++ BitVec.ofBool s.aenv.sampleRate.isSome ++ BitVec.ofBool s.osc.sampleRate.isSome
    ++ s.sticky.cause ++ 0#2 ++ BitVec.ofBool s.sticky.multi ++ BitVec.ofBool s.sticky.err

end Sys2Proof.Machine
end

