-- ==== Sys2Proof/Machine/Ops.lean ====
section
/-! DEFINITION. The operations every command is written over: emitting words, recording an error and
dropping a command (the block's counterpart of taking an exception, rules R260 to R263 of
60_exceptions.md), completing a command with its overflow check, reset, and taking a command off the
command port. -/

namespace Sys2Proof.Machine

/-- The quiet NaN that a dropped command emits for each of its response words (rule R90). -/
def quietNaN : Word := 0x7FC00000#32

/-- `emit`, for several words: they are appended to the response port in order (rules R11, R39). -/
def emitWords (ws : List Word) (s : State) : State := { s with resp := s.resp ++ ws }

/-- `raise E`: the error is recorded in STATUS (rules R11 and R262); nothing else changes. -/
def raiseError (e : ErrCode) (s : State) : State := { s with sticky := recordError e s.sticky }

/-- A command dropped after its header was accepted: the error is recorded, no register is written,
and each of its `n` response words is the quiet NaN (rules R90 and R262). -/
def dropCommand (e : ErrCode) (n : Nat) (s : State) : State :=
  emitWords (List.replicate n quietNaN) (raiseError e s)

/-- A command rejected at its header: the error is recorded and nothing is emitted (rules R87, R90).
`truncated` is no error: the command has not arrived. -/
def rejectHeader (r : Reject) (s : State) : State :=
  match r with
  | .truncated => s
  | .reserved => raiseError .reserved s
  | .opcode => raiseError .opcode s

/-- The value a real register gets when `v` is computed for it: a non-finite value is written as 0
(rules R23 and R262; DEDUCED, assumption log entry 4: the zero is what later lines read). -/
def settle (N : Arith) (v : F64) : F64 := if N.isFinite v then v else N.zero

/-- Some value computed for a register is non-finite (check 6 of rule R263). -/
def anyNonfinite (N : Arith) (vs : List F64) : Bool := vs.any fun v => !N.isFinite v

/-- What a setter leaves: the unit after its writes, and whether a value computed for one of its
registers was non-finite. -/
structure Update (α : Type) where
  /-- the unit after the writes -/
  unit : α
  /-- a computed register value was non-finite -/
  overflow : Bool

/-- What a `process` body leaves: the unit after its writes, the value it emits (before `r32`), and
whether a value computed for one of its registers was non-finite. -/
structure Advance (α : Type) where
  /-- the unit after the writes -/
  unit : α
  /-- the value the body hands on and emits -/
  sample : F64
  /-- a computed register value was non-finite -/
  overflow : Bool

/-- A command that passed its checks and ran: `s` holds its writes, `out` are the real values it
emits, each as `r32`.  If a register's computed value was non-finite or an emitted value rounds to an
infinity or a NaN, ERR_OVERFLOW is recorded once, and the command is complete all the same (rules
R23, R262 and R263; DEDUCED, assumption log entry 13: intermediate values do not count). -/
def complete (N : Arith) (overflow : Bool) (out : List F64) (s : State) : State :=
  let s' := emitWords (out.map N.r32) s
  if overflow || out.any N.overflows32 then raiseError .overflow s' else s'

/-- Every register and the sticky bits at their reset values, the framing position waiting for a
header; the two ports and the reset input are left as they are (rule R242, RESET). -/
def resetRegisters (P : Params) (s : State) : State :=
  { State.resetWith P with resp := s.resp, cmdPort := s.cmdPort, resetIn := s.resetIn }

/-- The effect of the reset input (rule R290): as RESET, and the response port is emptied.  A partly
received command is discarded, and so are the words still offered: they are refused, with no error
recorded (entry I25 of 93_implementation_defined.md; assumption log entry 6). -/
def applyResetInput (P : Params) (s : State) : State :=
  { State.resetWith P with resetIn := s.resetIn }

/-- Collect operand words for a header (rule R82): the whole command if enough words are offered;
else every offered word is kept and the block goes on waiting. -/
def collectOperands (h : Word) (ops port : List Word) (s : State) :
    Option (Word × List Word) × State :=
  let need := nwField h - ops.length
  if port.length < need then
    (none, { s with framing := .collecting h (ops ++ port), cmdPort := [] })
  else
    (some (h, ops ++ port.take need), { s with framing := .waiting, cmdPort := port.drop need })

/-- Take words off the command port until a command is whole or the port is empty (rules R64, R66
and R82): the header and operand words of the next command, and the state after they were taken. -/
def acceptCommand (s : State) : Option (Word × List Word) × State :=
  match s.framing with
  | .waiting =>
    match s.cmdPort with
    | [] => (none, s)
    | h :: rest => collectOperands h [] rest s
  | .collecting h ops => collectOperands h ops s.cmdPort s

/-- One step, for the execution `run` of a decoded command.  While the reset input is asserted no word
is accepted and the block is held in reset (rule R290).  Else the words of the next command are taken
off the port; where they are not all there yet, they are kept and nothing else happens (rules R64 and
R82), and on an empty port nothing happens at all (rules R291 and R300).  A whole command is rejected
at its header (rule R87) or executed.  DESIGN CHOICE, assumption log entry 7: what one step is, and the
port as part of the state. -/
def stepBy (P : Params) (run : Instr → State → Result) (s : State) : Result :=
  if s.resetIn then .next (applyResetInput P s)
  else
    match acceptCommand s with
    | (none, s') => .next s'
    | (some (h, ops), s') =>
      match decodeCommand h ops with
      | .ok i => run i s'
      | .error r => .next (rejectHeader r s')

end Sys2Proof.Machine
end

