-- ==== Sys2Proof/Machine/Operands.lean ====
section
/-! DEFINITION. The operand forms of rule R83 (30_encoding.md) with their checks, in the order of
rule R263 (60_exceptions.md).  Each form takes the rest of the command as a continuation, so that a
command reads in the order of its checks. -/

namespace Sys2Proof.Machine

/-- The word's exponent field, bits 30:23, is not all ones (rule R84). -/
def f32Finite (w : Word) : Bool := w.toNat / 2 ^ 23 % 2 ^ 8 != 255

/-- An `F32` operand (check 3): a non-finite one drops the command, which has `n` response words,
with ERR_NONFINITE; else the command goes on with its value. -/
def withF32 (N : Arith) (w : Word) (n : Nat) (s : State) (run : F64 → Result) : Result :=
  if f32Finite w then run (N.ofF32 w) else .next (dropCommand .nonfinite n s)

/-- A `U32` operand with a closed set of meanings (check 4, rule R89): the whole word is looked up,
and a value outside the set drops the command with ERR_OPERAND. -/
def withU32 {α : Type} (meaning : Option α) (n : Nat) (s : State) (run : α → Result) : Result :=
  match meaning with
  | some v => run v
  | none => .next (dropCommand .operand n s)

/-- A sample rate the command needs (check 5, rule R22): `unset` drops the command with ERR_NO_SR. -/
def withRate (rate : Option F64) (n : Nat) (s : State) (run : F64 → Result) : Result :=
  match rate with
  | some sr => run sr
  | none => .next (dropCommand .noSr n s)

/-- The closed set `0, 1` of OSC_WAVE and OSC_JC303 (rules R119 and R122). -/
def zeroOrOne (w : Word) : Option Bool :=
  match w.toNat with
  | 0 => some false
  | 1 => some true
  | _ => none

end Sys2Proof.Machine
end

