-- ==== Sys2Proof/Machine/Osc.lean ====
section
/-! DEFINITION. The oscillator (41_oscillator.md): the waveform components, the unit's operations for
any parameters, and the meanings of its nine commands. -/

namespace Sys2Proof.Machine

/-- The sawtooth of one sample (rule R112). -/
def sawSample (P : Params) (phase dt : F64) : F64 :=
  P.num.sub (P.num.sub (P.num.mul (P.num.ofNat 2) phase) P.num.one) (P.blep phase dt)

/-- A band-limited square of pulse width `pw`: `naive + BLEP(phase) - BLEP(second)`, where `second`
is the phase measured from the falling edge (rules R113 and R114). -/
def squareSample (P : Params) (phase pw second dt : F64) : F64 :=
  let naive := if P.num.lt phase pw then P.num.one else P.num.neg P.num.one
  P.num.sub (P.num.add naive (P.blep phase dt)) (P.blep second dt)

/-- The main square's pulse width (rule R113). -/
def pulseWidth (N : Arith) (jc303 : Bool) : F64 := if jc303 then N.dec 53 2 else N.dec 5 1

/-- The sample from the current phases (rules R110 to R115). -/
def oscSample (P : Params) (o : Osc) (dt dts : F64) : F64 :=
  let pw := pulseWidth P.num o.jc303
  let saw := sawSample P o.phase dt
  let second := P.num.frac (P.num.sub (P.num.add o.phase P.num.one) pw)
  let square := squareSample P o.phase pw second dt
  let half := P.num.dec 5 1
  let subOsc := squareSample P o.subPhase half (P.num.frac (P.num.add o.subPhase half)) dts
  let main := P.num.add (P.num.mul o.blend saw) (P.num.mul (P.num.sub P.num.one o.blend) square)
  P.num.mul (P.num.dec 707 3)
    (P.num.add (P.num.mul (P.num.sub P.num.one o.subBlend) main) (P.num.mul o.subBlend subOsc))

/-- The value step 1 of rule R124 computes for `OSC.frequency`: the target on the last step of a
glide, the multiplied frequency before it, the frequency itself where no glide runs. -/
def glidedFrequency (N : Arith) (o : Osc) : F64 :=
  if o.glideSteps = 0 then o.frequency
  else if o.glideSteps = 1 then o.targetFrequency
  else N.mul o.frequency o.glideMult

/-- Step 1 of rule R124: the glide step.  The frequency is written only while a glide runs. -/
def glideStep (N : Arith) (o : Osc) : Update Osc :=
  if o.glideSteps = 0 then { unit := o, overflow := false }
  else
    let f := glidedFrequency N o
    { unit := { o with glideSteps := o.glideSteps - 1, frequency := settle N f },
      overflow := anyNonfinite N [f] }

/-- `max(hz, SR_MIN)`, the rate a set-sample-rate command stores (rules R116, R151, R181, R207). -/
def storedRate (P : Params) (hz : F64) : F64 := P.num.max hz P.srMin

/-- OSC_SR on the unit (rule R116).  A glide in progress keeps its count and multiplier (R126). -/
def oscSetRate (P : Params) (hz : F64) (o : Osc) : Update Osc :=
  let sr := storedRate P hz
  { unit := { o with sampleRate := some (settle P.num sr) }, overflow := anyNonfinite P.num [sr] }

/-- OSC_FREQ on the unit (rule R117). -/
def oscSetFrequency (P : Params) (hz : F64) (o : Osc) : Update Osc :=
  let f := P.num.max hz P.freqMin
  { unit := { o with frequency := settle P.num f, targetFrequency := settle P.num f,
                     glideSteps := 0, glideMult := P.num.one, phase := P.num.zero, subPhase := P.num.zero },
    overflow := anyNonfinite P.num [f] }

/-- The glide step count of rule R118, saturated at `GLIDE_CNT_MAX` (rule R127). -/
def glideCount (P : Params) (ms sr : F64) : Nat :=
  P.num.ceilCount P.glideCntMax (P.num.div (P.num.mul (P.num.max ms P.tMinMs) sr) (P.num.ofNat 1000))

/-- OSC_GLIDE on the unit (rule R118).  The phases are not touched. -/
def oscGlideTo (P : Params) (sr hz ms : F64) (o : Osc) : Update Osc :=
  let tgt := P.num.max hz P.freqMin
  let n := glideCount P ms sr
  let mult := P.num.pow (P.num.div tgt o.frequency) (P.num.div P.num.one (P.num.ofNat n))
  { unit := { o with glideMult := settle P.num mult, targetFrequency := settle P.num tgt,
                     glideSteps := n },
    overflow := anyNonfinite P.num [mult, tgt] }

/-- OSC_WAVE on the unit (rule R119): `false` (0) is the sawtooth, `true` (1) the square. -/
def oscSetWave (N : Arith) (square : Bool) (o : Osc) : Osc :=
  { o with blend := if square then N.zero else N.one }

/-- OSC_BLEND on the unit (rule R120). -/
def oscSetBlend (N : Arith) (b : F64) (o : Osc) : Update Osc :=
  let v := N.clamp b N.zero N.one
  { unit := { o with blend := settle N v }, overflow := anyNonfinite N [v] }

/-- OSC_SUBBLEND on the unit (rule R121). -/
def oscSetSubBlend (N : Arith) (b : F64) (o : Osc) : Update Osc :=
  let v := N.clamp b N.zero N.one
  { unit := { o with subBlend := settle N v }, overflow := anyNonfinite N [v] }

/-- OSC_PHRST on the unit (rule R123). -/
def oscResetPhase (N : Arith) (o : Osc) : Osc :=
  { o with phase := N.zero, subPhase := N.zero }

/-- The body of OSC_PROC without its emit (rule R124): glide step, increment, sample from the current
phases, then advance and wrap. -/
def oscProcess (P : Params) (sr : F64) (o : Osc) : Advance Osc :=
  let g := glideStep P.num o
  let o1 := g.unit
  let dt := P.num.div o1.frequency sr
  let dts := P.num.div dt (P.num.ofNat 2)
  let out := oscSample P o1 dt dts
  let ph := P.num.frac (P.num.add o1.phase dt)
  let sp := P.num.frac (P.num.add o1.subPhase dts)
  { unit := { o1 with phase := settle P.num ph, subPhase := settle P.num sp,
                      out := settle P.num out },
    sample := out,
    overflow := g.overflow || anyNonfinite P.num [ph, sp, out] }

/-- The end of a command that sets oscillator registers. -/
def completeOsc (N : Arith) (u : Update Osc) (s : State) : Result :=
  .next (complete N u.overflow [] { s with osc := u.unit })

/-- OSC_SR, for given parameters (rule R116). -/
def execOscSrWith (P : Params) (hz : Word) (s : State) : Result :=
  withF32 P.num hz 0 s fun v => completeOsc P.num (oscSetRate P v s.osc) s

/-- OSC_SR with the default parameters of rule R7. -/
def execOscSr (hz : Word) (s : State) : Result := execOscSrWith params hz s

/-- OSC_FREQ, for given parameters (rule R117). -/
def execOscFreqWith (P : Params) (hz : Word) (s : State) : Result :=
  withF32 P.num hz 0 s fun v => completeOsc P.num (oscSetFrequency P v s.osc) s

/-- OSC_FREQ with the default parameters of rule R7. -/
def execOscFreq (hz : Word) (s : State) : Result := execOscFreqWith params hz s

/-- OSC_GLIDE, for given parameters (rule R118). -/
def execOscGlideWith (P : Params) (hz ms : Word) (s : State) : Result :=
  withF32 P.num hz 0 s fun f => withF32 P.num ms 0 s fun t => withRate s.osc.sampleRate 0 s fun sr =>
    completeOsc P.num (oscGlideTo P sr f t s.osc) s

/-- OSC_GLIDE with the default parameters of rule R7. -/
def execOscGlide (hz ms : Word) (s : State) : Result := execOscGlideWith params hz ms s

/-- OSC_WAVE, for given parameters (rule R119). -/
def execOscWaveWith (P : Params) (w : Word) (s : State) : Result :=
  withU32 (zeroOrOne w) 0 s fun square => .next { s with osc := oscSetWave P.num square s.osc }

/-- OSC_WAVE with the default parameters of rule R7. -/
def execOscWave (w : Word) (s : State) : Result := execOscWaveWith params w s

/-- OSC_BLEND, for given parameters (rule R120). -/
def execOscBlendWith (P : Params) (b : Word) (s : State) : Result :=
  withF32 P.num b 0 s fun v => completeOsc P.num (oscSetBlend P.num v s.osc) s

/-- OSC_BLEND with the default parameters of rule R7. -/
def execOscBlend (b : Word) (s : State) : Result := execOscBlendWith params b s

/-- OSC_SUBBLEND, for given parameters (rule R121). -/
def execOscSubblendWith (P : Params) (sb : Word) (s : State) : Result :=
  withF32 P.num sb 0 s fun v => completeOsc P.num (oscSetSubBlend P.num v s.osc) s

/-- OSC_SUBBLEND with the default parameters of rule R7. -/
def execOscSubblend (sb : Word) (s : State) : Result := execOscSubblendWith params sb s

/-- OSC_JC303 (rule R122). -/
def execOscJc303 (m : Word) (s : State) : Result :=
  withU32 (zeroOrOne m) 0 s fun on => .next { s with osc := { s.osc with jc303 := on } }

/-- OSC_PHRST, for given parameters (rule R123). -/
def execOscPhrstWith (P : Params) (s : State) : Result :=
  .next { s with osc := oscResetPhase P.num s.osc }

/-- OSC_PHRST with the default parameters of rule R7. -/
def execOscPhrst (s : State) : Result := execOscPhrstWith params s

/-- OSC_PROC, for given parameters (rule R124). -/
def execOscProcWith (P : Params) (s : State) : Result :=
  withRate s.osc.sampleRate 1 s fun sr =>
    let a := oscProcess P sr s.osc
    .next (complete P.num a.overflow [a.sample] { s with osc := a.unit })

/-- OSC_PROC with the default parameters of rule R7. -/
def execOscProc (s : State) : Result := execOscProcWith params s

end Sys2Proof.Machine
end

