-- ==== Sys2Proof/Machine/Aenv.lean ====
section
/-! DEFINITION. The amplitude envelope (42_amp_envelope.md): its coefficients, the unit's operations
for any parameters, and the meanings of its eight commands. -/

namespace Sys2Proof.Machine

/-- `samplesFor(ms)`, not rounded (rule R150). -/
def samplesFor (N : Arith) (sr ms : F64) : F64 := N.div (N.mul ms sr) (N.ofNat 1000)

/-- `attackInc` (rule R150). -/
def attackIncOf (N : Arith) (sr ms : F64) : F64 := N.div N.one (N.max N.one (samplesFor N sr ms))

/-- `coefFor(ms)`, the decay coefficient of both envelopes (rules R150 and R180). -/
def decayCoefOf (P : Params) (sr ms : F64) : F64 :=
  P.num.exp (P.num.div (P.num.neg P.num.one)
    (P.num.mul (P.num.mul (P.num.dec 1 3) (P.num.max ms P.tMinMs)) sr))

/-- AENV_SR on the unit (rule R151).  Stage, level and gate are unchanged (rule R160). -/
def aenvSetRate (P : Params) (hz : F64) (a : Aenv) : Update Aenv :=
  let rate := storedRate P hz
  let sr := settle P.num rate
  let inc := attackIncOf P.num sr a.attackMs
  let dc := decayCoefOf P sr a.decayMs
  let rc := decayCoefOf P sr a.releaseMs
  { unit := { a with sampleRate := some sr, attackInc := settle P.num inc,
                     decayCoef := settle P.num dc, releaseCoef := settle P.num rc },
    overflow := anyNonfinite P.num [rate, inc, dc, rc] }

/-- AENV_ATK on the unit (rule R152): the time is stored as given, and the increment recomputed if
the rate is set. -/
def aenvSetAttack (N : Arith) (ms : F64) (a : Aenv) : Update Aenv :=
  match a.sampleRate with
  | none => { unit := { a with attackMs := ms }, overflow := false }
  | some sr =>
    let inc := attackIncOf N sr ms
    { unit := { a with attackMs := ms, attackInc := settle N inc },
      overflow := anyNonfinite N [inc] }

/-- AENV_DEC on the unit (rule R153). -/
def aenvSetDecay (P : Params) (ms : F64) (a : Aenv) : Update Aenv :=
  match a.sampleRate with
  | none => { unit := { a with decayMs := ms }, overflow := false }
  | some sr =>
    let dc := decayCoefOf P sr ms
    { unit := { a with decayMs := ms, decayCoef := settle P.num dc },
      overflow := anyNonfinite P.num [dc] }

/-- AENV_REL on the unit (rule R154). -/
def aenvSetRelease (P : Params) (ms : F64) (a : Aenv) : Update Aenv :=
  match a.sampleRate with
  | none => { unit := { a with releaseMs := ms }, overflow := false }
  | some sr =>
    let rc := decayCoefOf P sr ms
    { unit := { a with releaseMs := ms, releaseCoef := settle P.num rc },
      overflow := anyNonfinite P.num [rc] }

/-- AENV_ON on the unit (rule R155): from any stage the level restarts at 0 (rule R297). -/
def aenvNoteOn (N : Arith) (a : Aenv) : Aenv :=
  { a with level := N.zero, stage := .attack, gate := true }

/-- AENV_OFF on the unit (rule R156): the level is unchanged. -/
def aenvNoteOff (a : Aenv) : Aenv := { a with stage := .release, gate := false }

/-- The floor `1e-4` under which Decay and Release go Idle (rule R8). -/
def levelFloor (N : Arith) : F64 := N.dec 1 4

/-- The Decay and the Release action of rule R157 with coefficient `c`. -/
def aenvFall (N : Arith) (c : F64) (a : Aenv) : Update Aenv :=
  let l := N.mul a.level c
  if N.lt (settle N l) (levelFloor N) then
    { unit := { a with level := N.zero, stage := .idle }, overflow := anyNonfinite N [l] }
  else { unit := { a with level := settle N l }, overflow := anyNonfinite N [l] }

/-- The Attack action of rule R157. -/
def aenvRise (N : Arith) (a : Aenv) : Update Aenv :=
  let l := N.add a.level a.attackInc
  if N.ge (settle N l) N.one then
    { unit := { a with level := N.one, stage := .decay }, overflow := anyNonfinite N [l] }
  else { unit := { a with level := settle N l }, overflow := anyNonfinite N [l] }

/-- The body of AENV_PROC without its emit (rule R157): one stage action; the sample is the level
after it.  The gate is never changed. -/
def aenvProcess (N : Arith) (a : Aenv) : Advance Aenv :=
  let u : Update Aenv := match a.stage with
    | .idle => { unit := a, overflow := false }
    | .attack => aenvRise N a
    | .decay => aenvFall N a.decayCoef a
    | .release => aenvFall N a.releaseCoef a
  { unit := u.unit, sample := u.unit.level, overflow := u.overflow }

/-- The end of a command that sets amplitude-envelope registers. -/
def completeAenv (N : Arith) (u : Update Aenv) (s : State) : Result :=
  .next (complete N u.overflow [] { s with aenv := u.unit })

/-- AENV_SR, for given parameters (rule R151). -/
def execAenvSrWith (P : Params) (hz : Word) (s : State) : Result :=
  withF32 P.num hz 0 s fun v => completeAenv P.num (aenvSetRate P v s.aenv) s

/-- AENV_SR with the default parameters of rule R7. -/
def execAenvSr (hz : Word) (s : State) : Result := execAenvSrWith params hz s

/-- AENV_ATK, for given parameters (rule R152). -/
def execAenvAtkWith (P : Params) (ms : Word) (s : State) : Result :=
  withF32 P.num ms 0 s fun v => completeAenv P.num (aenvSetAttack P.num v s.aenv) s

/-- AENV_ATK with the default parameters of rule R7. -/
def execAenvAtk (ms : Word) (s : State) : Result := execAenvAtkWith params ms s

/-- AENV_DEC, for given parameters (rule R153). -/
def execAenvDecWith (P : Params) (ms : Word) (s : State) : Result :=
  withF32 P.num ms 0 s fun v => completeAenv P.num (aenvSetDecay P v s.aenv) s

/-- AENV_DEC with the default parameters of rule R7. -/
def execAenvDec (ms : Word) (s : State) : Result := execAenvDecWith params ms s

/-- AENV_REL, for given parameters (rule R154). -/
def execAenvRelWith (P : Params) (ms : Word) (s : State) : Result :=
  withF32 P.num ms 0 s fun v => completeAenv P.num (aenvSetRelease P v s.aenv) s

/-- AENV_REL with the default parameters of rule R7. -/
def execAenvRel (ms : Word) (s : State) : Result := execAenvRelWith params ms s

/-- AENV_ON, for given parameters (rule R155). -/
def execAenvOnWith (P : Params) (s : State) : Result :=
  .next { s with aenv := aenvNoteOn P.num s.aenv }

/-- AENV_ON with the default parameters of rule R7. -/
def execAenvOn (s : State) : Result := execAenvOnWith params s

/-- AENV_OFF (rule R156). -/
def execAenvOff (s : State) : Result := .next { s with aenv := aenvNoteOff s.aenv }

/-- AENV_PROC, for given parameters (rule R157). -/
def execAenvProcWith (P : Params) (s : State) : Result :=
  withRate s.aenv.sampleRate 1 s fun _ =>
    let a := aenvProcess P.num s.aenv
    .next (complete P.num a.overflow [a.sample] { s with aenv := a.unit })

/-- AENV_PROC with the default parameters of rule R7. -/
def execAenvProc (s : State) : Result := execAenvProcWith params s

/-- AENV_ACTIVE (rule R158): the word is the gate (rule R30). -/
def execAenvActive (s : State) : Result :=
  .next (emitWords [if s.aenv.gate then 1#32 else 0#32] s)

end Sys2Proof.Machine
end

