-- ==== Sys2Proof/Machine/Menv.lean ====
section
/-! DEFINITION. The modulation envelope (43_mod_envelope.md): the unit's operations for any
parameters, and the meanings of its four commands. -/

namespace Sys2Proof.Machine

/-- MENV_SR on the unit (rules R180 and R181).  The level is unchanged. -/
def menvSetRate (P : Params) (hz : F64) (m : Menv) : Update Menv :=
  let rate := storedRate P hz
  let sr := settle P.num rate
  let dc := decayCoefOf P sr m.decayMs
  { unit := { m with sampleRate := some sr, decayCoef := settle P.num dc },
    overflow := anyNonfinite P.num [rate, dc] }

/-- MENV_DEC on the unit (rules R180 and R182). -/
def menvSetDecay (P : Params) (ms : F64) (m : Menv) : Update Menv :=
  match m.sampleRate with
  | none => { unit := { m with decayMs := ms }, overflow := false }
  | some sr =>
    let dc := decayCoefOf P sr ms
    { unit := { m with decayMs := ms, decayCoef := settle P.num dc },
      overflow := anyNonfinite P.num [dc] }

/-- MENV_TRIG on the unit (rule R183): exactly 1, at any level. -/
def menvTrigger (N : Arith) (m : Menv) : Menv := { m with level := N.one }

/-- The body of MENV_PROC without its emit (rule R184): no floor and no snap to zero. -/
def menvProcess (N : Arith) (m : Menv) : Advance Menv :=
  let l := N.mul m.level m.decayCoef
  { unit := { m with level := settle N l }, sample := settle N l,
    overflow := anyNonfinite N [l] }

/-- The end of a command that sets modulation-envelope registers. -/
def completeMenv (N : Arith) (u : Update Menv) (s : State) : Result :=
  .next (complete N u.overflow [] { s with menv := u.unit })

/-- MENV_SR, for given parameters (rule R181). -/
def execMenvSrWith (P : Params) (hz : Word) (s : State) : Result :=
  withF32 P.num hz 0 s fun v => completeMenv P.num (menvSetRate P v s.menv) s

/-- MENV_SR with the default parameters of rule R7. -/
def execMenvSr (hz : Word) (s : State) : Result := execMenvSrWith params hz s

/-- MENV_DEC, for given parameters (rule R182). -/
def execMenvDecWith (P : Params) (ms : Word) (s : State) : Result :=
  withF32 P.num ms 0 s fun v => completeMenv P.num (menvSetDecay P v s.menv) s

/-- MENV_DEC with the default parameters of rule R7. -/
def execMenvDec (ms : Word) (s : State) : Result := execMenvDecWith params ms s

/-- MENV_TRIG, for given parameters (rule R183). -/
def execMenvTrigWith (P : Params) (s : State) : Result :=
  .next { s with menv := menvTrigger P.num s.menv }

/-- MENV_TRIG with the default parameters of rule R7. -/
def execMenvTrig (s : State) : Result := execMenvTrigWith params s

/-- MENV_PROC, for given parameters (rule R184). -/
def execMenvProcWith (P : Params) (s : State) : Result :=
  withRate s.menv.sampleRate 1 s fun _ =>
    let a := menvProcess P.num s.menv
    .next (complete P.num a.overflow [a.sample] { s with menv := a.unit })

/-- MENV_PROC with the default parameters of rule R7. -/
def execMenvProc (s : State) : Result := execMenvProcWith params s

end Sys2Proof.Machine
end

