-- ==== Sys2Proof/Machine/Filt.lean ====
section
/-! DEFINITION. The ladder filter (44_ladder_filter.md): skew, modulation, the per-sample body, the
unit's operations for any parameters, and the meanings of its six commands. -/

namespace Sys2Proof.Machine

/-- The skewed resonance `rs` (rule R200; the literal divisor wins, conflict C5). -/
def skewedResonance (N : Arith) (r : F64) : F64 :=
  N.div (N.sub N.one (N.exp (N.mul (N.neg (N.ofNat 3)) r))) (N.dec 9502129316 10)

/-- `clamp(fc, 5, 0.45 * sampleRate)`, the cutoff clamp of rules R206 and R213. -/
def clampCutoff (N : Arith) (sr fc : F64) : F64 :=
  N.clamp fc (N.ofNat 5) (N.mul (N.dec 45 2) sr)

/-- The registers that hold a filter coefficient are non-finite as computed. -/
def coefsNonfinite (N : Arith) (c : Coefs) : Bool := anyNonfinite N [c.b0, c.k, c.g]

/-- The coefficients as they are written to their registers. -/
def settleCoefs (N : Arith) (c : Coefs) : Coefs :=
  { b0 := settle N c.b0, k := settle N c.k, g := settle N c.g }

/-- The stage accumulators as they are written to their registers. -/
def settleStages (N : Arith) (y : Stages) : Stages :=
  { y1 := settle N y.y1, y2 := settle N y.y2, y3 := settle N y.y3, y4 := settle N y.y4 }

/-- `configureFilt()` at rate `sr` (rule R206). -/
def configureFilt (P : Params) (sr : F64) (f : Filt) : Update Filt :=
  let fc := clampCutoff P.num sr f.cutoff
  let c := P.coef (settle P.num fc) sr (skewedResonance P.num f.resonance)
  { unit := { f with fc := settle P.num fc, coefs := settleCoefs P.num c },
    overflow := anyNonfinite P.num [fc] || coefsNonfinite P.num c }

/-- `if FILT.sampleRate != unset: configureFilt()` after a parameter was stored (rules R208, R209). -/
def reconfigureFilt (P : Params) (f : Filt) : Update Filt :=
  match f.sampleRate with
  | none => { unit := f, overflow := false }
  | some sr => configureFilt P sr f

/-- FILT_SR on the unit (rule R207).  The accumulators are kept. -/
def filtSetRate (P : Params) (hz : F64) (f : Filt) : Update Filt :=
  let rate := storedRate P hz
  let u := configureFilt P (settle P.num rate) { f with sampleRate := some (settle P.num rate) }
  { unit := u.unit, overflow := anyNonfinite P.num [rate] || u.overflow }

/-- FILT_CUT on the unit (rule R208): the stored cutoff is not clamped. -/
def filtSetCutoff (P : Params) (hz : F64) (f : Filt) : Update Filt :=
  reconfigureFilt P { f with cutoff := hz }

/-- FILT_RES on the unit (rules R36 and R209). -/
def filtSetResonance (P : Params) (r : F64) (f : Filt) : Update Filt :=
  let v := P.num.max P.num.zero r
  let u := reconfigureFilt P { f with resonance := settle P.num v }
  { unit := u.unit, overflow := anyNonfinite P.num [v] || u.overflow }

/-- FILT_ENVMOD on the unit (rule R210). -/
def filtSetEnvMod (depth : F64) (f : Filt) : Filt := { f with envMod := depth }

/-- FILT_FMAMT on the unit (rule R211). -/
def filtSetFmAmount (depth : F64) (f : Filt) : Filt := { f with fmAmount := depth }

/-- The four inputs of `process` (rule R214). -/
structure FiltInput where
  /-- the sample to filter -/
  input : F64
  /-- the envelope level -/
  env : F64
  /-- the accent level -/
  acc : F64
  /-- the FM input -/
  fm : F64

/-- Step 1, the modulation offset (rule R212): the FM term is added after the clamp. -/
def modulationOffset (P : Params) (x : FiltInput) (f : Filt) : F64 :=
  let off := P.num.clamp
    (P.num.add (P.num.mul f.envMod x.env) (P.accent x.acc x.env f.envMod f.cutoff))
    (P.num.mul (P.num.neg (P.num.dec 95 2)) f.cutoff) (P.num.mul (P.num.ofNat 4) f.cutoff)
  if P.num.lt P.fmEps (P.num.abs f.fmAmount) then
    P.num.add off (P.num.mul (P.num.mul (P.num.mul f.fmAmount x.fm) (P.num.dec 5 1)) f.cutoff)
  else off

/-- Step 2, the modulated cutoff (rule R213). -/
def modulatedCutoff (P : Params) (sr : F64) (x : FiltInput) (f : Filt) : F64 :=
  clampCutoff P.num sr (P.num.add f.cutoff (modulationOffset P x f))

/-- The body of FILT_PROC without its emit (rule R214): coefficients from the modulated cutoff,
feedback from the old top stage through saturation and the highpass, the four stages, the output
`2 * g * y4` (DEDUCED, assumption log entries 5 and 14). -/
def filtProcess (P : Params) (sr : F64) (x : FiltInput) (f : Filt) : Advance Filt :=
  let fc := modulatedCutoff P sr x f
  let c := P.coef fc sr (skewedResonance P.num f.resonance)
  let hp := P.hpf sr f.hpState (P.num.mul c.k (P.sat f.y.y4))
  let y0 := P.num.sub x.input hp.1
  let y := P.stage y0 f.y c.b0
  let out := P.num.mul (P.num.mul (P.num.ofNat 2) c.g) (settle P.num y.y4)
  { unit := { f with fc := settle P.num fc, coefs := settleCoefs P.num c,
                     hpState := settle P.num hp.2, y := settleStages P.num y,
                     out := settle P.num out },
    sample := out,
    overflow := anyNonfinite P.num [fc, hp.2, y.y1, y.y2, y.y3, y.y4, out] || coefsNonfinite P.num c }

/-- The end of a command that sets filter registers. -/
def completeFilt (N : Arith) (u : Update Filt) (s : State) : Result :=
  .next (complete N u.overflow [] { s with filt := u.unit })

/-- FILT_SR, for given parameters (rule R207). -/
def execFiltSrWith (P : Params) (hz : Word) (s : State) : Result :=
  withF32 P.num hz 0 s fun v => completeFilt P.num (filtSetRate P v s.filt) s

/-- FILT_SR with the default parameters of rule R7. -/
def execFiltSr (hz : Word) (s : State) : Result := execFiltSrWith params hz s

/-- FILT_CUT, for given parameters (rule R208). -/
def execFiltCutWith (P : Params) (hz : Word) (s : State) : Result :=
  withF32 P.num hz 0 s fun v => completeFilt P.num (filtSetCutoff P v s.filt) s

/-- FILT_CUT with the default parameters of rule R7. -/
def execFiltCut (hz : Word) (s : State) : Result := execFiltCutWith params hz s

/-- FILT_RES, for given parameters (rule R209). -/
def execFiltResWith (P : Params) (r : Word) (s : State) : Result :=
  withF32 P.num r 0 s fun v => completeFilt P.num (filtSetResonance P v s.filt) s

/-- FILT_RES with the default parameters of rule R7. -/
def execFiltRes (r : Word) (s : State) : Result := execFiltResWith params r s

/-- FILT_ENVMOD, for given parameters (rule R210). -/
def execFiltEnvmodWith (P : Params) (depth : Word) (s : State) : Result :=
  withF32 P.num depth 0 s fun v => .next { s with filt := filtSetEnvMod v s.filt }

/-- FILT_ENVMOD with the default parameters of rule R7. -/
def execFiltEnvmod (depth : Word) (s : State) : Result := execFiltEnvmodWith params depth s

/-- FILT_FMAMT, for given parameters (rule R211). -/
def execFiltFmamtWith (P : Params) (depth : Word) (s : State) : Result :=
  withF32 P.num depth 0 s fun v => .next { s with filt := filtSetFmAmount v s.filt }

/-- FILT_FMAMT with the default parameters of rule R7. -/
def execFiltFmamt (depth : Word) (s : State) : Result := execFiltFmamtWith params depth s

/-- FILT_PROC, for given parameters (rule R214): the operands are checked in operand
order, then the sample rate. -/
def execFiltProcWith (P : Params) (input env acc fm : Word) (s : State) : Result :=
  withF32 P.num input 1 s fun x => withF32 P.num env 1 s fun e =>
  withF32 P.num acc 1 s fun ac => withF32 P.num fm 1 s fun m =>
    withRate s.filt.sampleRate 1 s fun sr =>
      let a := filtProcess P sr { input := x, env := e, acc := ac, fm := m } s.filt
      .next (complete P.num a.overflow [a.sample] { s with filt := a.unit })

/-- FILT_PROC with the default parameters of rule R7. -/
def execFiltProc (input env acc fm : Word) (s : State) : Result :=
  execFiltProcWith params input env acc fm s

end Sys2Proof.Machine
end

