-- ==== Sys2Proof/Machine/Block.lean ====
section
/-! DEFINITION. The block commands NOP, RESET, TICK and PEEK (45_voice_control.md). -/

namespace Sys2Proof.Machine

/-- What PEEK reads from a sample-rate register: `unset` reads as the word 0 (rule R243). -/
def rateValue : Option F64 → RegValue
  | none => .u32 0#32
  | some sr => .real sr

/-- The register of a state index; `none` for an unassigned index (rules R61 and R243; the tables of
rules R24, R28, R32, R34 and R38). -/
def readRegister (s : State) (i : Nat) : Option RegValue :=
  match i with
  | 0 => some (.u32 (statusWord s))
  | 1 => some (.real s.osc.phase)
  | 2 => some (.real s.osc.subPhase)
  | 3 => some (.real s.osc.frequency)
  | 4 => some (.real s.osc.targetFrequency)
  | 5 => some (.u32 (BitVec.ofNat 32 s.osc.glideSteps))
  | 6 => some (.real s.osc.glideMult)
  | 7 => some (.real s.osc.blend)
  | 8 => some (.real s.osc.subBlend)
  | 9 => some (.u32 (if s.osc.jc303 then 1#32 else 0#32))
  | 10 => some (rateValue s.osc.sampleRate)
  | 11 => some (.real s.osc.out)
  | 16 => some (.u32 ((stageCode s.aenv.stage).setWidth 32))
  | 17 => some (.real s.aenv.level)
  | 18 => some (.u32 (if s.aenv.gate then 1#32 else 0#32))
  | 19 => some (.real s.aenv.attackMs)
  | 20 => some (.real s.aenv.decayMs)
  | 21 => some (.real s.aenv.releaseMs)
  | 22 => some (rateValue s.aenv.sampleRate)
  | 23 => some (.real s.aenv.attackInc)
  | 24 => some (.real s.aenv.decayCoef)
  | 25 => some (.real s.aenv.releaseCoef)
  | 32 => some (.real s.menv.level)
  | 33 => some (.real s.menv.decayMs)
  | 34 => some (rateValue s.menv.sampleRate)
  | 35 => some (.real s.menv.decayCoef)
  | 48 => some (.real s.filt.y.y1)
  | 49 => some (.real s.filt.y.y2)
  | 50 => some (.real s.filt.y.y3)
  | 51 => some (.real s.filt.y.y4)
  | 52 => some (.real s.filt.hpState)
  | 53 => some (.real s.filt.cutoff)
  | 54 => some (.real s.filt.resonance)
  | 55 => some (.real s.filt.envMod)
  | 56 => some (.real s.filt.fmAmount)
  | 57 => some (rateValue s.filt.sampleRate)
  | 58 => some (.real s.filt.fc)
  | 59 => some (.real s.filt.coefs.b0)
  | 60 => some (.real s.filt.coefs.k)
  | 61 => some (.real s.filt.coefs.g)
  | 62 => some (.real s.filt.out)
  | _ => none

/-- The emission of a register's value (rule R243; DEDUCED, assumption log entries 13 and 15): an
integer as it is; a real as `r32`, with the overflow check of rule R263. -/
def emitRegister (N : Arith) (v : RegValue) (s : State) : State :=
  match v with
  | .u32 w => emitWords [w] s
  | .real x => complete N false [x] s

/-- NOP (rule R240). -/
def execNop (s : State) : Result := .next s

/-- RESET, for given parameters (rule R242): the response port is not touched. -/
def execResetWith (P : Params) (s : State) : Result := .next (resetRegisters P s)

/-- RESET with the default parameters of rule R7. -/
def execReset (s : State) : Result := execResetWith params s

/-- TICK, for given parameters (rule R241): one sample of the whole voice, oscillator, amplitude
envelope, modulation envelope, filter, with `env = m` and `acc = a` at full `NUM` precision; it emits
`y`, then `a` (DEDUCED, assumption log entry 5: `o`, `a` and `m` are the values the bodies emit). -/
def execTickWith (P : Params) (fm : Word) (s : State) : Result :=
  withF32 P.num fm 2 s fun fmv =>
  withRate s.osc.sampleRate 2 s fun srO => withRate s.aenv.sampleRate 2 s fun _ =>
  withRate s.menv.sampleRate 2 s fun _ => withRate s.filt.sampleRate 2 s fun srF =>
    let o := oscProcess P srO s.osc
    let a := aenvProcess P.num s.aenv
    let m := menvProcess P.num s.menv
    let y := filtProcess P srF
      { input := o.sample, env := m.sample, acc := a.sample, fm := fmv } s.filt
    .next (complete P.num (o.overflow || a.overflow || m.overflow || y.overflow) [y.sample, a.sample]
      { s with osc := o.unit, aenv := a.unit, menv := m.unit, filt := y.unit })

/-- TICK with the default parameters of rule R7. -/
def execTick (fm : Word) (s : State) : Result := execTickWith params fm s

/-- PEEK, for given parameters (rule R243): no side effect but its response word; an unassigned index
is ERR_OPERAND. -/
def execPeekWith (P : Params) (index : Word) (s : State) : Result :=
  withU32 (readRegister s index.toNat) 1 s fun v => .next (emitRegister P.num v s)

/-- PEEK with the default parameters of rule R7. -/
def execPeek (index : Word) (s : State) : Result := execPeekWith params index s

end Sys2Proof.Machine
end

