-- ==== Sys2Proof/Machine/Dispatch.lean ====
section
/-! DEFINITION. One arm per command: the meaning it calls. -/

namespace Sys2Proof.Machine

def exec (i : Instr) (s : State) : Host.Outcome State Fault Refusal :=
  match i with
  -- block commands
  | .nop => Sys2Proof.Machine.execNop s
  | .reset => Sys2Proof.Machine.execReset s
  | .tick fm => Sys2Proof.Machine.execTick fm s
  | .peek index => Sys2Proof.Machine.execPeek index s
  -- OSC
  | .oscSr hz => Sys2Proof.Machine.execOscSr hz s
  | .oscFreq hz => Sys2Proof.Machine.execOscFreq hz s
  | .oscGlide hz ms => Sys2Proof.Machine.execOscGlide hz ms s
  | .oscWave w => Sys2Proof.Machine.execOscWave w s
  | .oscBlend b => Sys2Proof.Machine.execOscBlend b s
  | .oscSubblend sb => Sys2Proof.Machine.execOscSubblend sb s
  | .oscJc303 m => Sys2Proof.Machine.execOscJc303 m s
  | .oscPhrst => Sys2Proof.Machine.execOscPhrst s
  | .oscProc => Sys2Proof.Machine.execOscProc s
  -- AENV
  | .aenvSr hz => Sys2Proof.Machine.execAenvSr hz s
  | .aenvAtk ms => Sys2Proof.Machine.execAenvAtk ms s
  | .aenvDec ms => Sys2Proof.Machine.execAenvDec ms s
  | .aenvRel ms => Sys2Proof.Machine.execAenvRel ms s
  | .aenvOn => Sys2Proof.Machine.execAenvOn s
  | .aenvOff => Sys2Proof.Machine.execAenvOff s
  | .aenvProc => Sys2Proof.Machine.execAenvProc s
  | .aenvActive => Sys2Proof.Machine.execAenvActive s
  -- MENV
  | .menvSr hz => Sys2Proof.Machine.execMenvSr hz s
  | .menvDec ms => Sys2Proof.Machine.execMenvDec ms s
  | .menvTrig => Sys2Proof.Machine.execMenvTrig s
  | .menvProc => Sys2Proof.Machine.execMenvProc s
  -- FILT
  | .filtSr hz => Sys2Proof.Machine.execFiltSr hz s
  | .filtCut hz => Sys2Proof.Machine.execFiltCut hz s
  | .filtRes r => Sys2Proof.Machine.execFiltRes r s
  | .filtEnvmod depth => Sys2Proof.Machine.execFiltEnvmod depth s
  | .filtFmamt depth => Sys2Proof.Machine.execFiltFmamt depth s
  | .filtProc input env acc fm => Sys2Proof.Machine.execFiltProc input env acc fm s

end Sys2Proof.Machine
end

