-- ==== Sys2Proof/Machine/Step.lean ====
section
/-! DEFINITION. One step of the block: it takes the next whole command off the command port and
performs it (rules R64, R66 and R82), and the placing of a command for the host's questions. -/

namespace Sys2Proof.Machine

/-- One step of the block with the spec's default parameters (rules R7, R64, R66 and R82). -/
def step (s : State) : Host.Outcome State Fault Refusal := stepBy params exec s

/-- The command whose bits are `w` as the next one on the command port: its header and operand words
in front of what is offered, the framing position waiting for a header, the reset input released
(DESIGN CHOICE, assumption log entry 9). -/
def State.withFetchWord (s : State) (nbits w : Nat) : State :=
  { s with cmdPort := tableWords nbits w ++ s.cmdPort, framing := .waiting, resetIn := false }

end Sys2Proof.Machine
end

