-- ==== Sys2Proof/Machine/Assembler.lean ====
section
/-! DEFINITION. The host-side conveniences of 30_encoding.md section 6: the assembler syntax of rule
R91 and the pseudo-commands of rule R92.  The block never sees either; what it sees are the words.  The
points of the syntax that rule R91 leaves open are assumption log entry 18. -/

namespace Sys2Proof.Machine

/-- The pseudo-commands of rule R92, with operand words. -/
inductive Pseudo where
  /-- `SR_ALL hz` -/
  | srAll (hz : Word)
  /-- `NOTE hz` -/
  | note (hz : Word)
  /-- `NOTE_GLIDE hz, ms` -/
  | noteGlide (hz ms : Word)
  /-- `NOTE_OFF` -/
  | noteOff
  /-- `TICKS n, fm` -/
  | ticks (n : Nat) (fm : Word)
  /-- `RDSTATUS` -/
  | rdStatus
deriving DecidableEq, Repr

/-- The expansion table of rule R92. -/
def expandPseudo : Pseudo → List Instr
  | .srAll hz => [.oscSr hz, .aenvSr hz, .menvSr hz, .filtSr hz]
  | .note hz => [.oscFreq hz, .aenvOn, .menvTrig]
  | .noteGlide hz ms => [.oscGlide hz ms, .aenvOn, .menvTrig]
  | .noteOff => [.aenvOff]
  | .ticks n fm => List.replicate n (.tick fm)
  | .rdStatus => [.peek 0#32]

/-- The kind of an operand word (rule R83). -/
inductive OperandKind where
  /-- an IEEE-754 binary32 value -/
  | f32
  /-- an unsigned 32-bit integer -/
  | u32
deriving DecidableEq, Repr

/-- The mnemonics of rule R85 with their operand kinds and the command they build. -/
def mnemonicTable : List (String × List OperandKind × (List Word → Option Instr)) :=
  let at0 (i : Instr) : List Word → Option Instr := fun ws => match ws with
    | [] => some i
    | _ => none
  let at1 (f : Word → Instr) : List Word → Option Instr := fun ws => match ws with
    | [a] => some (f a)
    | _ => none
  let at2 (f : Word → Word → Instr) : List Word → Option Instr := fun ws => match ws with
    | [a, b] => some (f a b)
    | _ => none
  let at4 (f : Word → Word → Word → Word → Instr) : List Word → Option Instr := fun ws =>
    match ws with
    | [a, b, c, d] => some (f a b c d)
    | _ => none
  [("NOP", [], at0 .nop), ("RESET", [], at0 .reset), ("TICK", [.f32], at1 .tick),
   ("PEEK", [.u32], at1 .peek), ("OSC_SR", [.f32], at1 .oscSr), ("OSC_FREQ", [.f32], at1 .oscFreq),
   ("OSC_GLIDE", [.f32, .f32], at2 .oscGlide), ("OSC_WAVE", [.u32], at1 .oscWave),
   ("OSC_BLEND", [.f32], at1 .oscBlend), ("OSC_SUBBLEND", [.f32], at1 .oscSubblend),
   ("OSC_JC303", [.u32], at1 .oscJc303), ("OSC_PHRST", [], at0 .oscPhrst)]
  ++ [("OSC_PROC", [], at0 .oscProc), ("AENV_SR", [.f32], at1 .aenvSr),
   ("AENV_ATK", [.f32], at1 .aenvAtk), ("AENV_DEC", [.f32], at1 .aenvDec),
   ("AENV_REL", [.f32], at1 .aenvRel), ("AENV_ON", [], at0 .aenvOn), ("AENV_OFF", [], at0 .aenvOff),
   ("AENV_PROC", [], at0 .aenvProc), ("AENV_ACTIVE", [], at0 .aenvActive)]
  ++ [("MENV_SR", [.f32], at1 .menvSr), ("MENV_DEC", [.f32], at1 .menvDec),
   ("MENV_TRIG", [], at0 .menvTrig), ("MENV_PROC", [], at0 .menvProc),
   ("FILT_SR", [.f32], at1 .filtSr), ("FILT_CUT", [.f32], at1 .filtCut),
   ("FILT_RES", [.f32], at1 .filtRes), ("FILT_ENVMOD", [.f32], at1 .filtEnvmod),
   ("FILT_FMAMT", [.f32], at1 .filtFmamt), ("FILT_PROC", [.f32, .f32, .f32, .f32], at4 .filtProc)]

/-- The value of a digit in bases up to 16. -/
def digitValue (base : Nat) (c : Char) : Option Nat :=
  let n := c.toNat
  let d := if 48 ≤ n ∧ n ≤ 57 then n - 48
    else if 97 ≤ n ∧ n ≤ 102 then n - 87
    else if 65 ≤ n ∧ n ≤ 70 then n - 55
    else 16
  if d < base then some d else none

/-- The digits at the front of a text: their value on top of `acc`, how many they are on top of
`count`, and the rest. -/
def takeDigits (base : Nat) : List Char → Nat → Nat → Nat × Nat × List Char
  | [], acc, count => (acc, count, [])
  | c :: cs, acc, count =>
    match digitValue base c with
    | some d => takeDigits base cs (acc * base + d) (count + 1)
    | none => (acc, count, c :: cs)

/-- A whole text that is a number in a base. -/
def parseDigits (base : Nat) (cs : List Char) : Option Nat :=
  match takeDigits base cs 0 0 with
  | (v, n, []) => if n = 0 then none else some v
  | _ => none

/-- A decimal or `0x` integer. -/
def parseNat : List Char → Option Nat
  | '0' :: 'x' :: cs => parseDigits 16 cs
  | cs => parseDigits 10 cs

/-- A decimal exponent with an optional sign, the whole text. -/
def parseExponent : List Char → Option Int
  | '-' :: cs => (parseDigits 10 cs).map fun n => -(n : Int)
  | '+' :: cs => (parseDigits 10 cs).map fun n => (n : Int)
  | cs => (parseDigits 10 cs).map fun n => (n : Int)

/-- `n / base^k * radix^e` as a fraction. -/
def scaleLiteral (n base k radix : Nat) (e : Int) : Nat × Nat :=
  (n * radix ^ e.toNat, base ^ k * radix ^ (-e).toNat)

/-- An unsigned floating literal as a fraction: digits, an optional fraction part, and an optional
exponent, `e` to the base 10 in decimal and `p` to the base 2 in hexadecimal.  Digits on one side of
the point are enough, so that `.5` and `5.` are literals; a text without any digit is none (DESIGN
CHOICE, assumption log entry 18: rule R91 does not give a literal's form). -/
def parseMagnitude (base radix : Nat) (expMark : Char) (cs : List Char) : Option (Nat × Nat) :=
  let whole := takeDigits base cs 0 0
  let frac : Nat × Nat × List Char := match whole.2.2 with
    | '.' :: rest => takeDigits base rest whole.1 0
    | rest => (whole.1, 0, rest)
  if whole.2.1 + frac.2.1 = 0 then none
  else
    match frac.2.2 with
    | [] => some (scaleLiteral frac.1 base frac.2.1 radix 0)
    | c :: rest =>
      if c = expMark then (parseExponent rest).map (scaleLiteral frac.1 base frac.2.1 radix) else none

/-- A decimal or hexadecimal floating literal with an optional minus, rounded to binary32, nearest even
(rule R91; what it leaves open of a literal's form is DESIGN CHOICE, assumption log entry 18). -/
def parseF32 (cs : List Char) : Option Word :=
  let neg := match cs with
    | '-' :: _ => true
    | _ => false
  let body := if neg then cs.drop 1 else cs
  let mag := match body with
    | '0' :: 'x' :: rest => parseMagnitude 16 2 'p' rest
    | rest => parseMagnitude 10 10 'e' rest
  mag.map fun q =>
    BitVec.ofNat 32 ((if neg then 2 ^ 31 else 0) + roundMag 23 149 top32 q.1 q.2)

/-- An operand of a given kind (rule R91). -/
def parseOperand : OperandKind → List Char → Option Word
  | .f32, cs => parseF32 cs
  | .u32, cs =>
    match parseNat cs with
    | some n => if n < 2 ^ 32 then some (BitVec.ofNat 32 n) else none
    | none => none

/-- The text up to a comment. -/
def dropComment (cs : List Char) : List Char := cs.takeWhile fun c => c != ';'

/-- A blank of a line: a space or a tab (DESIGN CHOICE, assumption log entry 18: rule R91 names no
blanks). -/
def isBlank (c : Char) : Bool := c == ' ' || c == '\t'

/-- The text without blanks at its ends. -/
def trimSpaces (cs : List Char) : List Char :=
  ((cs.dropWhile isBlank).reverse.dropWhile isBlank).reverse

/-- The pieces of a text between commas. -/
def splitCommas : List Char → List (List Char)
  | [] => [[]]
  | c :: cs =>
    match splitCommas cs with
    | [] => [[c]]
    | p :: ps => if c = ',' then [] :: p :: ps else (c :: p) :: ps

/-- The operand texts of a line after its mnemonic. -/
def operandTexts (cs : List Char) : List (List Char) :=
  match trimSpaces cs with
  | [] => []
  | t => (splitCommas t).map trimSpaces

/-- Parse operand texts against the kinds of a row. -/
def parseOperands : List OperandKind → List (List Char) → Option (List Word)
  | [], [] => some []
  | k :: ks, t :: ts =>
    match parseOperand k t, parseOperands ks ts with
    | some w, some ws => some (w :: ws)
    | _, _ => none
  | _, _ => none

/-- A pseudo-command by its mnemonic (rule R92).  The count of TICKS is a decimal or `0x` integer without
an upper bound, 0 included (DESIGN CHOICE, assumption log entry 18: rule R92 gives it no form and no
range). -/
def parsePseudo (name : String) (ts : List (List Char)) : Option Pseudo :=
  match name, ts with
  | "SR_ALL", [a] => (parseF32 a).map .srAll
  | "NOTE", [a] => (parseF32 a).map .note
  | "NOTE_GLIDE", [a, b] =>
    match parseF32 a, parseF32 b with
    | some x, some y => some (.noteGlide x y)
    | _, _ => none
  | "NOTE_OFF", [] => some .noteOff
  | "TICKS", [n, f] =>
    match parseNat n, parseF32 f with
    | some k, some x => some (.ticks k x)
    | _, _ => none
  | "RDSTATUS", [] => some .rdStatus
  | _, _ => none

/-- One line of assembly (rule R91): the commands it stands for, none for an empty line; `none` where
it is not a command.  Rule R91 does not say what separates the mnemonic from its operands: here it ends
at the first blank, a space or a tab, and further blanks are dropped (DESIGN CHOICE, assumption log
entry 18). -/
def assembleLine (line : String) : Option (List Instr) :=
  let text := trimSpaces (dropComment line.toList)
  match text with
  | [] => some []
  | _ =>
    let name := String.ofList (text.takeWhile fun c => !isBlank c)
    let ts := operandTexts (text.dropWhile fun c => !isBlank c)
    match mnemonicTable.find? fun row => row.1 == name with
    | some row =>
      match parseOperands row.2.1 ts with
      | some ws => (row.2.2 ws).map fun i => [i]
      | none => none
    | none => (parsePseudo name ts).map expandPseudo

/-- The words of a line of assembly. -/
def assembleWords (line : String) : Option (List Word) :=
  (assembleLine line).map fun is => is.flatMap encode

end Sys2Proof.Machine
end

