-- ==== Sys2Proof/Machine/HostPort.lean ====
section
/-! DEFINITION. What the outside world does to the block: the host offers words on the command port
and takes words off the response port, and drives the reset input (rules R3, R39, R62, R66 and R290).
None of these is a step of the block; they are the inputs between steps. -/

namespace Sys2Proof.Machine

/-- The host offers words on the command port, behind those already offered (rule R66).  While the
reset input is asserted they are refused: not accepted, and no error recorded (rule R290, entry I25 of
93_implementation_defined.md). -/
def State.offer (s : State) (ws : List Word) : State :=
  if s.resetIn then s else { s with cmdPort := s.cmdPort ++ ws }

/-- The host offers bytes through a byte transport, least significant byte first (rule R62): the state
after the whole words were offered, and the bytes of an unfinished word, which have delivered no word
(rule R63).  DESIGN CHOICE, assumption log entry 19: the transport keeps those bytes and puts them in
front of the next ones; the block holds none of them. -/
def State.offerBytes (s : State) (bs : List Byte) : State × List Byte :=
  (s.offer (wordsOfBytes bs), restOfBytes bs)

/-- The host removes the word at the front of the response port (rule R39). -/
def State.takeResponse (s : State) : Option Word × State :=
  match s.resp with
  | [] => (none, s)
  | w :: ws => (some w, { s with resp := ws })

/-- The reset input is asserted, as at power-on (rule R290), for given parameters. -/
def State.assertResetWith (P : Params) (s : State) : State :=
  { applyResetInput P s with resetIn := true }

/-- The reset input is released (rule R290), for given parameters: every register holds its reset
value, the sticky bits are 0, the response port is empty, and a header is waited for. -/
def State.releaseResetWith (P : Params) (s : State) : State :=
  if s.resetIn then { applyResetInput P s with resetIn := false } else s

/-- The reset input is asserted, with the default parameters. -/
def State.assertReset (s : State) : State := s.assertResetWith params

/-- The reset input is released, with the default parameters. -/
def State.releaseReset (s : State) : State := s.releaseResetWith params

end Sys2Proof.Machine
end

