-- ==== Sys2Proof/Machine/Parametric.lean ====
section
/-! DEFINITION. The block for given parameters (rule R7 of 00_scope.md: a model takes each `OPEN`
parameter as an argument): the meaning of every command and the step.  `exec` and `step` are these at
the default column (assumption log entry 1). -/

namespace Sys2Proof.Machine

/-- The meaning of a command for given parameters.  Four commands use none. -/
def execWith (P : Params) (i : Instr) (s : State) : Result :=
  match i with
  -- block commands
  | .nop => execNop s
  | .reset => execResetWith P s
  | .tick fm => execTickWith P fm s
  | .peek index => execPeekWith P index s
  -- OSC
  | .oscSr hz => execOscSrWith P hz s
  | .oscFreq hz => execOscFreqWith P hz s
  | .oscGlide hz ms => execOscGlideWith P hz ms s
  | .oscWave w => execOscWaveWith P w s
  | .oscBlend b => execOscBlendWith P b s
  | .oscSubblend sb => execOscSubblendWith P sb s
  | .oscJc303 m => execOscJc303 m s
  | .oscPhrst => execOscPhrstWith P s
  | .oscProc => execOscProcWith P s
  -- AENV
  | .aenvSr hz => execAenvSrWith P hz s
  | .aenvAtk ms => execAenvAtkWith P ms s
  | .aenvDec ms => execAenvDecWith P ms s
  | .aenvRel ms => execAenvRelWith P ms s
  | .aenvOn => execAenvOnWith P s
  | .aenvOff => execAenvOff s
  | .aenvProc => execAenvProcWith P s
  | .aenvActive => execAenvActive s
  -- MENV
  | .menvSr hz => execMenvSrWith P hz s
  | .menvDec ms => execMenvDecWith P ms s
  | .menvTrig => execMenvTrigWith P s
  | .menvProc => execMenvProcWith P s
  -- FILT
  | .filtSr hz => execFiltSrWith P hz s
  | .filtCut hz => execFiltCutWith P hz s
  | .filtRes r => execFiltResWith P r s
  | .filtEnvmod depth => execFiltEnvmodWith P depth s
  | .filtFmamt depth => execFiltFmamtWith P depth s
  | .filtProc input env acc fm => execFiltProcWith P input env acc fm s

/-- One step of the block for given parameters (rules R7, R64, R66 and R82). -/
def stepWith (P : Params) (s : State) : Result := stepBy P (execWith P) s

end Sys2Proof.Machine
end

