-- ==== Sys2Proof/WellFormed.lean ====
section
/-! DEFINITION. Well-formed commands: the operand conditions that do not depend on the state
(checks 3 and 4 of rule R263, 60_exceptions.md).  An ill-formed command still executes: it is
dropped with ERR_NONFINITE or ERR_OPERAND. -/

namespace Sys2Proof

/-- An `F32` operand is finite: its exponent field, bits 30:23, is not all ones (rule R84). -/
def finiteOperand (w : Word) : Bool :=
  w.toNat / 2 ^ 23 % 2 ^ 8 != 255

/-- The assigned state indices (rule R61 of 20_memory.md): 0 STATUS, 1 to 11 OSC, 16 to 25 AENV,
32 to 35 MENV, 48 to 62 FILT. -/
def assignedIndex (w : Word) : Bool :=
  let i := w.toNat
  i ≤ 11 || (16 ≤ i && i ≤ 25) || (32 ≤ i && i ≤ 35) || (48 ≤ i && i ≤ 62)

/-- Every `F32` operand is finite (rule R84) and every `U32` operand is in its closed set (rule
R89): OSC_WAVE and OSC_JC303 take 0 or 1, PEEK an assigned index. -/
def Instr.wellFormed : Instr → Bool
  | .nop => true
  | .reset => true
  | .tick fm => finiteOperand fm
  | .peek index => assignedIndex index
  | .oscSr hz => finiteOperand hz
  | .oscFreq hz => finiteOperand hz
  | .oscGlide hz ms => finiteOperand hz && finiteOperand ms
  | .oscWave w => w.toNat ≤ 1
  | .oscBlend b => finiteOperand b
  | .oscSubblend sb => finiteOperand sb
  | .oscJc303 m => m.toNat ≤ 1
  | .oscPhrst => true
  | .oscProc => true
  | .aenvSr hz => finiteOperand hz
  | .aenvAtk ms => finiteOperand ms
  | .aenvDec ms => finiteOperand ms
  | .aenvRel ms => finiteOperand ms
  | .aenvOn => true
  | .aenvOff => true
  | .aenvProc => true
  | .aenvActive => true
  | .menvSr hz => finiteOperand hz
  | .menvDec ms => finiteOperand ms
  | .menvTrig => true
  | .menvProc => true
  | .filtSr hz => finiteOperand hz
  | .filtCut hz => finiteOperand hz
  | .filtRes r => finiteOperand r
  | .filtEnvmod depth => finiteOperand depth
  | .filtFmamt depth => finiteOperand depth
  | .filtProc input env acc fm =>
      finiteOperand input && finiteOperand env && finiteOperand acc && finiteOperand fm

end Sys2Proof
end

