-- ==== Sys2Proof/Safety.lean ====
section
/-! DEFINITION. What counts as a good state and a good run, in the terms the statements use: the
legal values of the registers (10_state.md), the operands and sample rates a command needs (rules R85
and R263), runs of commands, and what correct rounding means. -/

namespace Sys2Proof.Machine

/-! ### Legal states -/

/-- Every real register of the oscillator is finite (rule R23). -/
def oscFinite (o : Osc) : Bool :=
  [o.phase, o.subPhase, o.frequency, o.targetFrequency, o.glideMult, o.blend, o.subBlend, o.out].all
    F64.isFinite

/-- Every real register of the amplitude envelope is finite (rule R23). -/
def aenvFinite (a : Aenv) : Bool :=
  [a.level, a.attackMs, a.decayMs, a.releaseMs, a.attackInc, a.decayCoef, a.releaseCoef].all
    F64.isFinite

/-- Every real register of the modulation envelope is finite (rule R23). -/
def menvFinite (m : Menv) : Bool := [m.level, m.decayMs, m.decayCoef].all F64.isFinite

/-- Every real register of the filter is finite (rule R23). -/
def filtFinite (f : Filt) : Bool :=
  [f.y.y1, f.y.y2, f.y.y3, f.y.y4, f.hpState, f.cutoff, f.resonance, f.envMod, f.fmAmount, f.fc,
    f.coefs.b0, f.coefs.k, f.coefs.g, f.out].all F64.isFinite

/-- A sample rate is `unset` or a finite value of at least `SR_MIN` (rule R22). -/
def rateLegal : Option F64 → Bool
  | none => true
  | some sr => sr.isFinite && F64.ge sr params.srMin

/-- `x` is finite and `0 <= x <= 1`. -/
def inUnit (x : F64) : Bool := x.isFinite && F64.ge x F64.zero && F64.ge F64.one x

/-- `x` is finite and `0 <= x < 1`. -/
def inHalfOpenUnit (x : F64) : Bool := x.isFinite && F64.ge x F64.zero && F64.lt x F64.one

/-- The invariant of rule R23: every real register, the sample rates included, holds a finite value. -/
def registersFinite (s : State) : Bool :=
  oscFinite s.osc && aenvFinite s.aenv && menvFinite s.menv && filtFinite s.filt
    && rateLegal s.osc.sampleRate && rateLegal s.aenv.sampleRate && rateLegal s.menv.sampleRate
    && rateLegal s.filt.sampleRate

/-- The sticky bits are legal (rules R38 and R261): without an error all are 0; with one, `CAUSE` is a
code 1 to 6. -/
def stickyLegal (t : Sticky) : Bool :=
  if t.err then decide (1 ≤ t.cause.toNat ∧ t.cause.toNat ≤ 6) else !t.multi && t.cause == 0#4

/-- The framing position is legal (rules R21 and R82): while collecting, fewer operand words have
arrived than the header announces. -/
def framingLegal : Framing → Bool
  | .waiting => true
  | .collecting h ops => decide (ops.length < nwField h)

/-- The derived coefficients hold 0 while their unit's sample rate is `unset` (rule R41). -/
def restingCoefs (s : State) : Bool :=
  (s.aenv.sampleRate.isSome ||
    (s.aenv.attackInc == F64.zero && s.aenv.decayCoef == F64.zero && s.aenv.releaseCoef == F64.zero))
  && (s.menv.sampleRate.isSome || s.menv.decayCoef == F64.zero)
  && (s.filt.sampleRate.isSome ||
    (s.filt.fc == F64.zero && s.filt.coefs == { b0 := F64.zero, k := F64.zero, g := F64.zero }))

/-- The parameter registers hold legal values (rules R24, R27 and R36): the glide count is at most
`GLIDE_CNT_MAX`, the target at least `FREQ_MIN`, the blends in `[0, 1]`, the resonance at least 0. -/
def parametersLegal (s : State) : Bool :=
  decide (s.osc.glideSteps ≤ params.glideCntMax) && F64.ge s.osc.targetFrequency params.freqMin
    && inUnit s.osc.blend && inUnit s.osc.subBlend && F64.ge s.filt.resonance F64.zero

/-- The control part of a good state: framing, STATUS and parameters. -/
def controlLegal (s : State) : Bool :=
  stickyLegal s.sticky && framingLegal s.framing && restingCoefs s && parametersLegal s

/-- The signal part of a good state (rules R24, R25, R28, R32): the phases in `[0, 1)`, the levels and
envelope coefficients in `[0, 1]`, no negative frequency and no negative glide multiplier.  The upper
end 1 of a coefficient is reached in `NUM` (assumption log entry 8). -/
def signalsLegal (s : State) : Bool :=
  inHalfOpenUnit s.osc.phase && inHalfOpenUnit s.osc.subPhase
    && F64.ge s.osc.frequency F64.zero && F64.ge s.osc.glideMult F64.zero
    && inUnit s.aenv.level && inUnit s.aenv.attackInc && inUnit s.aenv.decayCoef
    && inUnit s.aenv.releaseCoef && inUnit s.menv.level && inUnit s.menv.decayCoef

/-! ### What a command needs -/

/-- The `F32` operand words of a command, in operand order (rule R85). -/
def f32Operands : Instr → List Word
  | .tick fm => [fm]
  | .oscSr hz => [hz]
  | .oscFreq hz => [hz]
  | .oscGlide hz ms => [hz, ms]
  | .oscBlend b => [b]
  | .oscSubblend sb => [sb]
  | .aenvSr hz => [hz]
  | .aenvAtk ms => [ms]
  | .aenvDec ms => [ms]
  | .aenvRel ms => [ms]
  | .menvSr hz => [hz]
  | .menvDec ms => [ms]
  | .filtSr hz => [hz]
  | .filtCut hz => [hz]
  | .filtRes r => [r]
  | .filtEnvmod depth => [depth]
  | .filtFmamt depth => [depth]
  | .filtProc input env acc fm => [input, env, acc, fm]
  | .nop => []
  | .reset => []
  | .peek _ => []
  | .oscWave _ => []
  | .oscJc303 _ => []
  | .oscPhrst => []
  | .oscProc => []
  | .aenvOn => []
  | .aenvOff => []
  | .aenvProc => []
  | .aenvActive => []
  | .menvTrig => []
  | .menvProc => []

/-- The sample rates a command needs, in the order OSC, AENV, MENV, FILT (check 5 of rule R263). -/
def neededRates (i : Instr) (s : State) : List (Option F64) :=
  match i with
  | .oscGlide _ _ => [s.osc.sampleRate]
  | .oscProc => [s.osc.sampleRate]
  | .aenvProc => [s.aenv.sampleRate]
  | .menvProc => [s.menv.sampleRate]
  | .filtProc _ _ _ _ => [s.filt.sampleRate]
  | .tick _ =>
    [s.osc.sampleRate, s.aenv.sampleRate, s.menv.sampleRate, s.filt.sampleRate]
  | .nop => []
  | .reset => []
  | .peek _ => []
  | .oscSr _ => []
  | .oscFreq _ => []
  | .oscWave _ => []
  | .oscBlend _ => []
  | .oscSubblend _ => []
  | .oscJc303 _ => []
  | .oscPhrst => []
  | .aenvSr _ => []
  | .aenvAtk _ => []
  | .aenvDec _ => []
  | .aenvRel _ => []
  | .aenvOn => []
  | .aenvOff => []
  | .aenvActive => []
  | .menvSr _ => []
  | .menvDec _ => []
  | .menvTrig => []
  | .filtSr _ => []
  | .filtCut _ => []
  | .filtRes _ => []
  | .filtEnvmod _ => []
  | .filtFmamt _ => []

/-- The unit a command belongs to: `OPC[7:4]` of its header (rule R81). -/
def unitOf (i : Instr) : Nat := opcField (headerOf i) / 2 ^ 4

/-- The value a real register holds once `v` was computed for it: a non-finite value is written as 0
(rules R23 and R262).  That later lines of the command read this value is assumption log entry 4. -/
def written (v : F64) : F64 := if v.isFinite then v else F64.zero

/-- The sticky bits after a command that ran and computed the values `regs` for real registers and
`out` for the response port (rules R23, R262 and R263): ERR_OVERFLOW is recorded if a register's value
is non-finite or an emitted value rounds to an infinity or a NaN.  That no other value counts is
assumption log entry 13. -/
def stickyAfter (regs out : List F64) (t : Sticky) : Sticky :=
  if regs.any (fun v => !v.isFinite) || out.any F64.overflows32 then recordError .overflow t else t

/-- A command that advances the oscillator by one sample: OSC_PROC, or a TICK with a finite FM input. -/
def isOscSample : Instr → Prop
  | .oscProc => True
  | .tick fm => f32Finite fm = true
  | _ => False

/-- The set commands of rule R65 whose repetition with the same operand is idempotent. -/
def isSetter : Instr → Prop
  | .oscSr _ | .oscFreq _ | .oscWave _ | .oscBlend _ | .oscSubblend _ | .oscJc303 _ => True
  | .aenvSr _ | .aenvAtk _ | .aenvDec _ | .aenvRel _ | .menvSr _ | .menvDec _ => True
  | .filtSr _ | .filtCut _ | .filtRes _ | .filtEnvmod _ | .filtFmamt _ => True
  | _ => False

/-- Two states whose four units agree. -/
def sameUnits (s t : State) : Prop :=
  s.osc = t.osc ∧ s.aenv = t.aenv ∧ s.menv = t.menv ∧ s.filt = t.filt

/-! ### Runs -/

/-- The commands of a list executed one after the other. -/
def runCommands : List Instr → State → Result
  | [], s => .next s
  | i :: is, s =>
    match exec i s with
    | .next t => runCommands is t
    | .fault f => .fault f
    | .refused r => .refused r

/-- `n` steps of the machine. -/
def runSteps (n : Nat) (s : State) : Result := Sys2Proof.core.run n s

/-! ### Correct rounding -/

/-- `x` is the real number `v` rounded to binary64, round to nearest, ties to even (rule R7): below the
overflow threshold a finite value that no finite value is nearer to, with an even pattern where
another value is as near; from the threshold on the infinity of the sign of `v`. -/
def Rounded (v : ℝ) (x : F64) : Prop :=
  if |v| < 2 ^ 1024 - 2 ^ 970 then
    x.isFinite ∧ ∀ y : F64, y.isFinite →
      |(x.toRat : ℝ) - v| ≤ |(y.toRat : ℝ) - v| ∧
        (|(x.toRat : ℝ) - v| = |(y.toRat : ℝ) - v| → y.toRat ≠ x.toRat → x.bits.toNat % 2 = 0)
  else x = F64.inf (v < 0)

/-- The rational value of a binary32 word that is not an infinity or a NaN (rules R9 and R62). -/
def wordToRat (w : Word) : ℚ :=
  let e : Nat := w.toNat / 2 ^ 23 % 2 ^ 8
  let m : Nat := w.toNat % 2 ^ 23
  (if w.toNat / 2 ^ 31 = 1 then -1 else 1)
    * (if e = 0 then (m : ℚ) * (2 : ℚ) ^ (-149 : ℤ)
       else ((2 ^ 23 + m : ℕ) : ℚ) * (2 : ℚ) ^ ((e : ℤ) - 150))

/-- `w` is the rational `q` rounded to binary32, round to nearest, ties to even (rules R9 and R11), as
`Rounded` for binary64. -/
def Rounded32 (q : ℚ) (w : Word) : Prop :=
  if |q| < 2 ^ 128 - 2 ^ 103 then
    f32Finite w ∧ ∀ u : Word, f32Finite u →
      |wordToRat w - q| ≤ |wordToRat u - q| ∧
        (|wordToRat w - q| = |wordToRat u - q| → wordToRat u ≠ wordToRat w → w.toNat % 2 = 0)
  else w = if q < 0 then 0xFF800000#32 else 0x7F800000#32

/-- At one of the working precisions the two bounds of an enclosure round to the same value, so the
search of `agree` ends by agreement (assumption log entry 3). -/
def settled (enc : Nat → Nat → Nat × Nat) : Prop :=
  ∃ P ∈ precisions,
    roundMag 52 1074 top64 (enc 0 P).1 (enc 0 P).2 = roundMag 52 1074 top64 (enc 1 P).1 (enc 1 P).2

end Sys2Proof.Machine
end

