-- ==== Sys2Proof/Certificates/Slice0/Obligations.lean ====
section
/-! DEFINITION. The statements for the provers.  They are about the block (its commands, its ports, its
arithmetic), never about a program.  A rule R<n> is a rule of spec/. -/

open Sys2Proof Sys2Proof.Machine

/-! ### Encoding and framing (30_encoding.md, 20_memory.md) -/

/-- Rules R80 to R85: a command's words, whatever its operands are and whatever follows them in the
stream, decode to that command, and the rest of the stream is left. -/
def Obligations.EncodedCommandDecodesToItself : Prop :=
  ∀ (i : Instr) (rest : List Word), decodeWords (encode i ++ rest) = .ok (i, rest)

/-- Rule R85: the header must match a row exactly, so the words of a decoded command are the ones it
is encoded with. -/
def Obligations.DecodedCommandIsItsEncoding : Prop :=
  ∀ (h : Word) (ops : List Word) (i : Instr), decodeCommand h ops = .ok i → encode i = h :: ops

/-- Rules R62 and R63: words carried least significant byte first arrive as they were, and up to three
bytes of an unfinished word behind them deliver nothing.  The model's choice (log entry 19): those
bytes are kept by the transport, so that bytes offered in two pieces act as if offered at once. -/
def Obligations.WordsSurviveByteTransport : Prop :=
  (∀ (ws : List Word) (tail : List Byte), tail.length < 4 →
    wordsOfBytes (bytesOfWords ws ++ tail) = ws ∧ restOfBytes (bytesOfWords ws ++ tail) = tail) ∧
  (∀ (s : State) (first later : List Byte),
    (s.offerBytes first).1.offerBytes ((s.offerBytes first).2 ++ later) = s.offerBytes (first ++ later))

/-- Rule R85 on words written out from its table, one per unit, and rule R91's example. -/
def Obligations.SpecWordsDecode : Prop :=
  decodeTableWord 32 0x00000000 = some .nop ∧
  decodeTableWord 64 0x0000000300000103 = some (.peek 3#32) ∧
  decodeTableWord 96 0x42C80000445C000000000212 = some (.oscGlide 0x445C0000#32 0x42C80000#32) ∧
  decodeTableWord 32 0x00000024 = some .aenvOn ∧
  decodeTableWord 64 0x4348000000000131 = some (.menvDec 0x43480000#32) ∧
  decodeTableWord 160 0x0000000400000003000000023F80000000000445 =
    some (.filtProc 0x3F800000#32 2#32 3#32 4#32) ∧
  decodeTableWord 32 0x00000800 = none ∧ decodeTableWord 32 0x00000004 = none

/-- When the words on the command port decode to a command, one step takes its words off the port and
is that command's execution (rules R64, R66, R82). -/
def Obligations.StepRunsDecodedCommand : Prop :=
  ∀ (s : State) (i : Instr) (rest : List Word), s.resetIn = false → s.framing = .waiting →
    decodeWords s.cmdPort = .ok (i, rest) → step s = exec i { s with cmdPort := rest }

/-- Rule R82: the block takes a header and exactly `header[10:8]` operand words, whatever the other
fields hold, executes that command, and waits for a header again.  With fewer words offered it keeps
them and acts on nothing, and words that arrive in pieces act as if they had arrived together. -/
def Obligations.FramingTakesExactlyOneCommand : Prop :=
  (∀ (s : State) (h : Word) (ops rest : List Word), s.resetIn = false → s.framing = .waiting →
    s.cmdPort = h :: (ops ++ rest) → ops.length = nwField h →
    (step s = match decodeCommand h ops with
      | .ok i => exec i { s with cmdPort := rest }
      | .error r => .next (rejectHeader r { s with cmdPort := rest })) ∧
    ∃ t, step s = .next t ∧ t.cmdPort = rest ∧ t.framing = .waiting) ∧
  (∀ (s : State) (h : Word) (ops : List Word), s.resetIn = false → s.framing = .waiting →
    s.cmdPort = h :: ops → ops.length < nwField h →
    step s = .next { s with framing := .collecting h ops, cmdPort := [] }) ∧
  (∀ (s : State) (h : Word) (early late : List Word), s.resetIn = false →
    s.framing = .collecting h early → early.length < nwField h →
    step { s with cmdPort := late } =
      step { s with framing := .waiting, cmdPort := h :: (early ++ late) })

/-- Rule R87: a command whose header matches no row is consumed, its error is recorded
(ERR_RESERVED where `RSV` is not 0, else ERR_OPCODE), and nothing else changes and nothing is emitted. -/
def Obligations.IllegalHeaderIsConsumedAndRecorded : Prop :=
  ∀ (s : State) (h : Word) (ops rest : List Word), s.resetIn = false → s.framing = .waiting →
    s.cmdPort = h :: (ops ++ rest) → ops.length = nwField h → (∀ i : Instr, headerOf i ≠ h) →
    step s = .next
      { s with
        cmdPort := rest
        sticky := recordError (if rsvField h ≠ 0 then .reserved else .opcode) s.sticky }

/-! ### Errors and responses (60_exceptions.md, 30_encoding.md section 5) -/

/-- Rules R260 and R266: no state of the block stops it; every step gives a next state. -/
def Obligations.NoStepStops : Prop := ∀ s : State, ∃ t, step s = .next t

/-- Checks 3 to 6 of rule R263, in their order: a non-finite `F32` operand, then an operand outside its
closed set, then an `unset` sample rate the command needs; a command that passes them records nothing
but perhaps ERR_OVERFLOW (RESET clears the record). -/
def Obligations.ChecksRunInOrder : Prop :=
  ∀ (i : Instr) (s : State),
    if (f32Operands i).any (fun w => !finiteOperand w) then
      exec i s = .next (dropCommand .nonfinite i.respCount s)
    else if i.wellFormed = false then exec i s = .next (dropCommand .operand i.respCount s)
    else if none ∈ neededRates i s then exec i s = .next (dropCommand .noSr i.respCount s)
    else ∃ t, exec i s = .next t ∧
      (i = .reset ∨ t.sticky = s.sticky ∨ t.sticky = recordError .overflow s.sticky)

/-- Rule R90: a command emits exactly its response count, whether it completes or is dropped; a dropped
one emits quiet NaNs; a command rejected at its header emits nothing. -/
def Obligations.ResponseCountNeverDependsOnAnError : Prop :=
  (∀ (i : Instr) (s : State), ∃ t ws, exec i s = .next t ∧ t.resp = s.resp ++ ws ∧
    ws.length = i.respCount ∧
    ((i.wellFormed = false ∨ none ∈ neededRates i s) →
      ws = List.replicate i.respCount 0x7FC00000#32)) ∧
  (∀ (r : Reject) (s : State), (rejectHeader r s).resp = s.resp)

/-- Rule R67: the words of a command precede every word of the next one. -/
def Obligations.ResponsesStayInCommandOrder : Prop :=
  ∀ (i j : Instr) (s : State), ∃ t u wi wj, exec i s = .next t ∧ exec j t = .next u ∧
    t.resp = s.resp ++ wi ∧ wi.length = i.respCount ∧
    u.resp = s.resp ++ wi ++ wj ∧ wj.length = j.respCount

/-- Rules R261 and R262: a command records at most one error; the first one sets `ERR` and `CAUSE`, a
later one sets `MULTI` and keeps `CAUSE`; the codes are the table's. -/
def Obligations.AtMostOneErrorIsRecorded : Prop :=
  (∀ (i : Instr) (s t : State), exec i s = .next t → i ≠ .reset →
    t.sticky = s.sticky ∨ ∃ e, t.sticky = recordError e s.sticky) ∧
  (∀ (e : ErrCode) (t : Sticky), t.err = false →
    recordError e t = { err := true, multi := t.multi, cause := errCode e }) ∧
  (∀ (e : ErrCode) (t : Sticky), t.err = true →
    recordError e t = { err := true, multi := true, cause := t.cause }) ∧
  (errCode .opcode = 1#4 ∧ errCode .reserved = 2#4 ∧ errCode .nonfinite = 3#4 ∧
    errCode .noSr = 4#4 ∧ errCode .operand = 5#4 ∧ errCode .overflow = 6#4)

/-- Rule R38: every field of the STATUS word with its reset value (the stages numbered as rule R29, the
codes as rule R261), what recording an error does to the sticky bits, that `CAUSE` stays 0 while
`ERR` is 0, and that only RESET and the reset input clear them. -/
def Obligations.StatusWordShowsItsFields : Prop :=
  (∀ s : State,
    (statusWord s).getLsbD 0 = s.sticky.err ∧ (statusWord s).getLsbD 1 = s.sticky.multi ∧
    (statusWord s).extractLsb' 2 2 = 0#2 ∧ (statusWord s).extractLsb' 4 4 = s.sticky.cause ∧
    (statusWord s).getLsbD 8 = s.osc.sampleRate.isSome ∧
    (statusWord s).getLsbD 9 = s.aenv.sampleRate.isSome ∧
    (statusWord s).getLsbD 10 = s.menv.sampleRate.isSome ∧
    (statusWord s).getLsbD 11 = s.filt.sampleRate.isSome ∧
    (statusWord s).extractLsb' 12 2 = stageCode s.aenv.stage ∧
    (statusWord s).getLsbD 14 = s.aenv.gate ∧
    (statusWord s).getLsbD 15 = decide (0 < s.osc.glideSteps) ∧
    (statusWord s).getLsbD 16 = s.osc.jc303 ∧ (statusWord s).extractLsb' 17 15 = 0#15) ∧
  statusWord State.reset = 0#32 ∧
  (∀ (e : ErrCode) (t : Sticky), (recordError e t).err = true ∧
    (t.err = false → (recordError e t).cause = errCode e ∧ (recordError e t).multi = t.multi) ∧
    (t.err = true → (recordError e t).cause = t.cause ∧ (recordError e t).multi = true)) ∧
  (∀ (i : Instr) (s t : State), exec i s = .next t →
    (t.sticky = s.sticky ∨ t.sticky = { err := false, multi := false, cause := 0#4 } ∨
      ∃ e, t.sticky = recordError e s.sticky) ∧
    ((s.sticky.err = false → s.sticky.cause = 0#4) → t.sticky.err = false → t.sticky.cause = 0#4)) ∧
  (∀ (i : Instr) (s t : State), exec i s = .next t → i ≠ .reset →
    (s.sticky.err = true → t.sticky.err = true ∧ t.sticky.cause = s.sticky.cause) ∧
    (s.sticky.multi = true → t.sticky.multi = true)) ∧
  (∀ s : State, ∃ t, exec .reset s = .next t ∧
    t.sticky = { err := false, multi := false, cause := 0#4 }) ∧
  (∀ s : State, (applyResetInput params s).sticky = { err := false, multi := false, cause := 0#4 }) ∧
  (stageCode .idle = 0#2 ∧ stageCode .attack = 1#2 ∧ stageCode .decay = 2#2 ∧
    stageCode .release = 3#2) ∧
  (errCode .opcode = 1#4 ∧ errCode .reserved = 2#4 ∧ errCode .nonfinite = 3#4 ∧
    errCode .noSr = 4#4 ∧ errCode .operand = 5#4 ∧ errCode .overflow = 6#4)

/-! ### Reset and idling (10_state.md section 8, 70_reset_and_hazards.md) -/

/-- Rule R40: every register's reset value, the real ones as binary64 patterns (440, 1, 3, 200, 20, 800
and 0), after the RESET command, which leaves the response port, and after the reset input, which
empties it. -/
def Obligations.ResetLeavesTheTableValues : Prop :=
  let z : F64 := ⟨0x0000000000000000#64⟩
  let f440 : F64 := ⟨0x407B800000000000#64⟩
  let f1 : F64 := ⟨0x3FF0000000000000#64⟩
  let f200 : F64 := ⟨0x4069000000000000#64⟩
  let table (t : State) : Prop :=
    t.osc =
      { phase := z, subPhase := z, frequency := f440, targetFrequency := f440, glideSteps := 0,
        glideMult := f1, blend := f1, subBlend := z, jc303 := false, sampleRate := none, out := z } ∧
    t.aenv =
      { stage := .idle, level := z, gate := false, attackMs := ⟨0x4008000000000000#64⟩,
        decayMs := f200, releaseMs := ⟨0x4034000000000000#64⟩, sampleRate := none, attackInc := z,
        decayCoef := z, releaseCoef := z } ∧
    t.menv = { level := z, decayMs := f200, sampleRate := none, decayCoef := z } ∧
    t.filt =
      { y := { y1 := z, y2 := z, y3 := z, y4 := z }, hpState := z,
        cutoff := ⟨0x4089000000000000#64⟩, resonance := z, envMod := z, fmAmount := z,
        sampleRate := none, fc := z, coefs := { b0 := z, k := z, g := z }, out := z } ∧
    t.sticky = { err := false, multi := false, cause := 0#4 }
  (table State.reset ∧ State.reset.resp = [] ∧ State.reset.framing = .waiting) ∧
  ∀ s : State,
    (∃ t, exec .reset s = .next t ∧ table t ∧ t.resp = s.resp ∧ t.framing = .waiting) ∧
    table s.assertReset.releaseReset ∧ s.assertReset.releaseReset.resp = [] ∧
    s.assertReset.releaseReset.framing = .waiting

/-- Rule R242: RESET gives every register and the sticky bits their reset values and leaves the response
port as it is, every state completing it. -/
def Obligations.ResetCommandKeepsTheResponses : Prop :=
  ∀ s : State,
    exec .reset s = .next
      { State.reset with resp := s.resp, cmdPort := s.cmdPort, resetIn := s.resetIn } ∧
    statusWord State.reset = 0#32

/-- Rule R290 with entry I25 of 93_implementation_defined.md: while the reset input is asserted no word
is accepted and the block is held at its reset values with empty ports; words offered then are refused
and no error is recorded; released, it is in the reset state.  That words standing on the port when the
input is asserted are refused too is read from I25 (log entry 6). -/
def Obligations.ResetInputHoldsTheBlock : Prop :=
  (∀ s : State, s.resetIn = true → step s = .next { State.reset with resetIn := true }) ∧
  (∀ s : State, s.assertReset = { State.reset with resetIn := true }) ∧
  (∀ (s : State) (ws : List Word), s.resetIn = true → s.offer ws = s) ∧
  (∀ (s : State) (ws : List Word), (s.assertReset.offer ws).releaseReset = State.reset)

/-- Rules R291 and R300: with no command on the port nothing happens; right after reset, nothing. -/
def Obligations.NothingHappensWithoutACommand : Prop :=
  (∀ s : State, s.resetIn = false → s.framing = .waiting → s.cmdPort = [] → step s = .next s) ∧
  step State.reset = .next State.reset

/-- Rule R2: each unit owns its state.  A command but RESET and TICK changes no unit but its own
(`OPC[7:4]`), a block command none, and no command but RESET touches the framing position, none the
words offered or the reset input. -/
def Obligations.UnitsShareNoState : Prop :=
  ∀ (i : Instr) (s t : State), exec i s = .next t →
    t.cmdPort = s.cmdPort ∧ t.resetIn = s.resetIn ∧
    (i ≠ .reset → t.framing = s.framing) ∧
    (i ≠ .reset → (∀ fm, i ≠ .tick fm) →
      (unitOf i ≠ 1 → t.osc = s.osc) ∧ (unitOf i ≠ 2 → t.aenv = s.aenv) ∧
      (unitOf i ≠ 3 → t.menv = s.menv) ∧ (unitOf i ≠ 4 → t.filt = s.filt))

/-- The "written by" columns of rules R24, R28, R32 and R34: no command but the ones whose headers are
listed with a register, and RESET, changes it. -/
def Obligations.RegistersAreWrittenOnlyByTheirCommands : Prop :=
  ∀ (i : Instr) (s t : State), exec i s = .next t →
    let others (writers : List Word) : Prop := headerOf i ∉ 0x00000001#32 :: writers
    (others [0x111#32, 0x017#32, 0x018#32, 0x102#32] →
      t.osc.phase = s.osc.phase ∧ t.osc.subPhase = s.osc.subPhase) ∧
    (others [0x111#32, 0x018#32, 0x102#32] → t.osc.frequency = s.osc.frequency) ∧
    (others [0x111#32, 0x212#32] → t.osc.targetFrequency = s.osc.targetFrequency ∧
      t.osc.glideMult = s.osc.glideMult) ∧
    (others [0x111#32, 0x212#32, 0x018#32, 0x102#32] → t.osc.glideSteps = s.osc.glideSteps) ∧
    (others [0x113#32, 0x114#32] → t.osc.blend = s.osc.blend) ∧
    (others [0x115#32] → t.osc.subBlend = s.osc.subBlend) ∧
    (others [0x116#32] → t.osc.jc303 = s.osc.jc303) ∧
    (others [0x110#32] → t.osc.sampleRate = s.osc.sampleRate) ∧
    (others [0x018#32, 0x102#32] → t.osc.out = s.osc.out) ∧
    (others [0x024#32, 0x025#32, 0x026#32, 0x102#32] → t.aenv.stage = s.aenv.stage) ∧
    (others [0x024#32, 0x026#32, 0x102#32] → t.aenv.level = s.aenv.level) ∧
    (others [0x024#32, 0x025#32] → t.aenv.gate = s.aenv.gate) ∧
    (others [0x121#32] → t.aenv.attackMs = s.aenv.attackMs) ∧
    (others [0x122#32] → t.aenv.decayMs = s.aenv.decayMs) ∧
    (others [0x123#32] → t.aenv.releaseMs = s.aenv.releaseMs) ∧
    (others [0x120#32] → t.aenv.sampleRate = s.aenv.sampleRate) ∧
    (others [0x120#32, 0x121#32] → t.aenv.attackInc = s.aenv.attackInc) ∧
    (others [0x120#32, 0x122#32] → t.aenv.decayCoef = s.aenv.decayCoef) ∧
    (others [0x120#32, 0x123#32] → t.aenv.releaseCoef = s.aenv.releaseCoef) ∧
    (others [0x032#32, 0x033#32, 0x102#32] → t.menv.level = s.menv.level) ∧
    (others [0x131#32] → t.menv.decayMs = s.menv.decayMs) ∧
    (others [0x130#32] → t.menv.sampleRate = s.menv.sampleRate) ∧
    (others [0x130#32, 0x131#32] → t.menv.decayCoef = s.menv.decayCoef) ∧
    (others [0x445#32, 0x102#32] → t.filt.y = s.filt.y ∧ t.filt.hpState = s.filt.hpState ∧
      t.filt.out = s.filt.out) ∧
    (others [0x141#32] → t.filt.cutoff = s.filt.cutoff) ∧
    (others [0x142#32] → t.filt.resonance = s.filt.resonance) ∧
    (others [0x143#32] → t.filt.envMod = s.filt.envMod) ∧
    (others [0x144#32] → t.filt.fmAmount = s.filt.fmAmount) ∧
    (others [0x140#32] → t.filt.sampleRate = s.filt.sampleRate) ∧
    (others [0x140#32, 0x141#32, 0x142#32, 0x445#32, 0x102#32] →
      t.filt.fc = s.filt.fc ∧ t.filt.coefs = s.filt.coefs)

/-! ### The plain commands -/

/-- Rules R123, R155, R156, R183 and R240: NOP, OSC_PHRST, AENV_ON, AENV_OFF and MENV_TRIG complete in
every state with exactly these writes. -/
def Obligations.PlainCommandsWriteExactly : Prop :=
  ∀ s : State,
    exec .nop s = .next s ∧
    exec .oscPhrst s = .next { s with osc := { s.osc with phase := F64.zero, subPhase := F64.zero } } ∧
    exec .aenvOn s = .next
      { s with aenv := { s.aenv with level := F64.zero, stage := .attack, gate := true } } ∧
    exec .aenvOff s = .next { s with aenv := { s.aenv with stage := .release, gate := false } } ∧
    exec .menvTrig s = .next { s with menv := { s.menv with level := F64.one } }

/-- Rules R30 and R158: AENV_ACTIVE completes in every state and emits the gate and nothing else; it
answers 1 after AENV_ON, 0 after AENV_OFF and after RESET, and no other command changes the answer,
whatever the level is. -/
def Obligations.ActiveReportsTheGate : Prop :=
  ∀ s : State,
    exec .aenvActive s = .next { s with resp := s.resp ++ [if s.aenv.gate then 1#32 else 0#32] } ∧
    (∃ t, runCommands [.aenvOn, .aenvActive] s = .next t ∧ t.resp = s.resp ++ [1#32]) ∧
    (∃ t, runCommands [.aenvOff, .aenvActive] s = .next t ∧ t.resp = s.resp ++ [0#32]) ∧
    (∃ t, runCommands [.reset, .aenvActive] s = .next t ∧ t.resp = s.resp ++ [0#32]) ∧
    (∀ (i : Instr) (t : State), i ≠ .aenvOn → i ≠ .aenvOff → i ≠ .reset → exec i s = .next t →
      t.aenv.gate = s.aenv.gate)

/-! ### Oscillator (41_oscillator.md) -/

/-- Rule R116: OSC_SR stores `max(hz, SR_MIN)`; the glide in progress, the phases and everything else
stay (rule R126). -/
def Obligations.OscSrStoresTheFlooredRate : Prop :=
  ∀ (hz : Word) (s : State), f32Finite hz = true →
    let sr := F64.max (F64.ofF32 hz) params.srMin
    exec (.oscSr hz) s = .next { s with osc := { s.osc with sampleRate := some sr } } ∧
    rateLegal (some sr) = true ∧
    (F64.lt (F64.ofF32 hz) params.srMin = true → sr = params.srMin) ∧
    (F64.lt params.srMin (F64.ofF32 hz) = true → sr = F64.ofF32 hz)

/-- Rule R117: OSC_FREQ sets frequency and target to `max(hz, FREQ_MIN)`, cancels a glide and resets
both phases. -/
def Obligations.OscFreqRestartsThePeriod : Prop :=
  ∀ (hz : Word) (s : State), f32Finite hz = true →
    let f := F64.max (F64.ofF32 hz) params.freqMin
    exec (.oscFreq hz) s = .next
      { s with
        osc := { s.osc with
          frequency := f, targetFrequency := f, glideSteps := 0, glideMult := F64.one,
          phase := F64.zero, subPhase := F64.zero } } ∧
    F64.ge f params.freqMin = true

/-- Rules R118 and R127: OSC_GLIDE computes the step count, at least 1 and at most `GLIDE_CNT_MAX`, and
the multiplier from the current frequency; the phases and the frequency stay.  The count is
`min(GLIDE_CNT_MAX, max(1, ceil(x)))` of the exact value of `x = t * sr / 1000` as computed, and
`GLIDE_CNT_MAX` where that has overflowed (log entry 12).  A multiplier that is not finite is written as
0 and records ERR_OVERFLOW (rules R23 and R262, log entry 13). -/
def Obligations.OscGlideStartsAGlide : Prop :=
  ∀ (hz ms : Word) (s : State) (sr : F64), f32Finite hz = true → f32Finite ms = true →
    s.osc.sampleRate = some sr →
    let tgt := F64.max (F64.ofF32 hz) params.freqMin
    let t := F64.max (F64.ofF32 ms) params.tMinMs
    let x := F64.div (F64.mul t sr) (F64.ofNat 1000)
    let n := F64.ceilCount params.glideCntMax x
    let mult := F64.pow (F64.div tgt s.osc.frequency) (F64.div F64.one (F64.ofNat n))
    exec (.oscGlide hz ms) s = .next
      { s with
        osc := { s.osc with glideMult := written mult, targetFrequency := tgt, glideSteps := n }
        sticky := stickyAfter [mult] [] s.sticky } ∧
    1 ≤ n ∧ n ≤ params.glideCntMax ∧
    (x.isFinite = true → (n : ℤ) = min (params.glideCntMax : ℤ) (max 1 ⌈x.toRat⌉)) ∧
    (x = F64.inf false → n = params.glideCntMax)

/-- Rules R119 and R122 with R89: OSC_WAVE selects an end of the blend, OSC_JC303 the mode; the whole
operand word is the value, and any but 0 and 1 drops the command with ERR_OPERAND. -/
def Obligations.WaveAndModeTakeZeroOrOne : Prop :=
  ∀ (w : Word) (s : State),
    (w = 0#32 →
      exec (.oscWave w) s = .next { s with osc := { s.osc with blend := F64.one } } ∧
      exec (.oscJc303 w) s = .next { s with osc := { s.osc with jc303 := false } }) ∧
    (w = 1#32 →
      exec (.oscWave w) s = .next { s with osc := { s.osc with blend := F64.zero } } ∧
      exec (.oscJc303 w) s = .next { s with osc := { s.osc with jc303 := true } }) ∧
    (1 < w.toNat →
      exec (.oscWave w) s = .next { s with sticky := recordError .operand s.sticky } ∧
      exec (.oscJc303 w) s = .next { s with sticky := recordError .operand s.sticky })

/-- Rules R120, R121 and R27: both blends store the operand clamped into `[0, 1]`: an operand inside,
its two ends included, keeps its value (a negative zero may be stored as either zero, log entry 2). -/
def Obligations.BlendsAreClamped : Prop :=
  ∀ (b : Word) (s : State), f32Finite b = true →
    let v := F64.clamp (F64.ofF32 b) F64.zero F64.one
    exec (.oscBlend b) s = .next { s with osc := { s.osc with blend := v } } ∧
    exec (.oscSubblend b) s = .next { s with osc := { s.osc with subBlend := v } } ∧
    inUnit v = true ∧
    (F64.ge (F64.ofF32 b) F64.zero = true → F64.ge F64.one (F64.ofF32 b) = true →
      v.toRat = (F64.ofF32 b).toRat ∧ (b ≠ 0x80000000#32 → v = F64.ofF32 b)) ∧
    (F64.lt F64.one (F64.ofF32 b) = true → v = F64.one) ∧
    (F64.lt (F64.ofF32 b) F64.zero = true → v = F64.zero)

/-- Rules R110 to R115 and R124: OSC_PROC does its glide step, forms the sample from the phases before
the advance, advances and wraps both phases, and emits the sample; no other unit changes.  Where a
computed value is not finite, its register gets 0, the increment is computed from that 0, and the word
emitted is the computed sample's (rules R11, R23 and R262 as log entries 4 and 5 read them);
ERR_OVERFLOW is recorded once (rule R263, log entry 13). -/
def Obligations.OscProcAdvancesOneSample : Prop :=
  ∀ (s : State) (sr : F64), s.osc.sampleRate = some sr →
    let o := s.osc
    let raw := if o.glideSteps = 1 then o.targetFrequency else F64.mul o.frequency o.glideMult
    let f := if o.glideSteps = 0 then o.frequency else written raw
    let dt := F64.div f sr
    let dts := F64.div dt (F64.ofNat 2)
    let half := F64.dec 5 1
    let pw := if o.jc303 then F64.dec 53 2 else half
    let saw := F64.sub (F64.sub (F64.mul (F64.ofNat 2) o.phase) F64.one) (params.blep o.phase dt)
    let square := F64.sub
      (F64.add (if F64.lt o.phase pw then F64.one else F64.neg F64.one) (params.blep o.phase dt))
      (params.blep (F64.frac (F64.sub (F64.add o.phase F64.one) pw)) dt)
    let subOsc := F64.sub
      (F64.add (if F64.lt o.subPhase half then F64.one else F64.neg F64.one)
        (params.blep o.subPhase dts))
      (params.blep (F64.frac (F64.add o.subPhase half)) dts)
    let main := F64.add (F64.mul o.blend saw) (F64.mul (F64.sub F64.one o.blend) square)
    let out := F64.mul (F64.dec 707 3)
      (F64.add (F64.mul (F64.sub F64.one o.subBlend) main) (F64.mul o.subBlend subOsc))
    let ph := F64.frac (F64.add o.phase dt)
    let sp := F64.frac (F64.add o.subPhase dts)
    exec .oscProc s = .next
      { s with
        osc := { o with
          phase := written ph, subPhase := written sp, frequency := f,
          glideSteps := o.glideSteps - 1, out := written out }
        resp := s.resp ++ [F64.r32 out]
        sticky := stickyAfter
          ((if o.glideSteps = 0 then [] else [raw]) ++ [ph, sp, out]) [out] s.sticky }

/-- Rule R125, second property: with a glide of `n` steps under way, after `k < n` samples (OSC_PROC or
TICK, in any mix) `n - k` steps are left, and after exactly `n` the frequency equals the target. -/
def Obligations.GlideEndsExactlyAtItsTarget : Prop :=
  ∀ (cmds : List Instr) (s : State), (∀ c ∈ cmds, isOscSample c) →
    s.osc.sampleRate.isSome = true → s.aenv.sampleRate.isSome = true →
    s.menv.sampleRate.isSome = true → s.filt.sampleRate.isSome = true →
    s.osc.targetFrequency.isFinite = true → 0 < cmds.length → cmds.length ≤ s.osc.glideSteps →
    ∃ t, runCommands cmds s = .next t ∧ t.osc.glideSteps = s.osc.glideSteps - cmds.length ∧
      t.osc.targetFrequency = s.osc.targetFrequency ∧
      (cmds.length = s.osc.glideSteps → t.osc.frequency = s.osc.targetFrequency)

/-! ### Amplitude envelope (42_amp_envelope.md) -/

/-- Rules R150 and R151: AENV_SR stores the rate and recomputes the three coefficients; stage, level and
gate stay (rule R160).  A coefficient that is not finite is written as 0 and records ERR_OVERFLOW (rules
R23 and R262, log entry 13). -/
def Obligations.AenvSrRecomputesTheCoefficients : Prop :=
  ∀ (hz : Word) (s : State), f32Finite hz = true →
    let a := s.aenv
    let sr := F64.max (F64.ofF32 hz) params.srMin
    let samples := F64.div (F64.mul a.attackMs sr) (F64.ofNat 1000)
    let inc := F64.div F64.one (F64.max F64.one samples)
    let coef (ms : F64) := F64.exp (F64.div (F64.neg F64.one)
      (F64.mul (F64.mul (F64.dec 1 3) (F64.max ms params.tMinMs)) sr))
    exec (.aenvSr hz) s = .next
      { s with
        aenv := { a with
          sampleRate := some sr, attackInc := written inc,
          decayCoef := written (coef a.decayMs), releaseCoef := written (coef a.releaseMs) }
        sticky := stickyAfter [inc, coef a.decayMs, coef a.releaseMs] [] s.sticky }

/-- Rules R150 and R152 to R154: a time is stored as given; its coefficient is recomputed where the rate
is set and left where it is `unset`; nothing else changes.  A coefficient that is not finite is written
as 0 and records ERR_OVERFLOW (rules R23 and R262, log entry 13). -/
def Obligations.AenvTimesAreStoredAsGiven : Prop :=
  ∀ (ms : Word) (s : State), f32Finite ms = true →
    let a := s.aenv
    let v := F64.ofF32 ms
    (a.sampleRate = none →
      exec (.aenvAtk ms) s = .next { s with aenv := { a with attackMs := v } } ∧
      exec (.aenvDec ms) s = .next { s with aenv := { a with decayMs := v } } ∧
      exec (.aenvRel ms) s = .next { s with aenv := { a with releaseMs := v } }) ∧
    (∀ sr, a.sampleRate = some sr →
      let inc := F64.div F64.one (F64.max F64.one (F64.div (F64.mul v sr) (F64.ofNat 1000)))
      let coef := F64.exp (F64.div (F64.neg F64.one)
        (F64.mul (F64.mul (F64.dec 1 3) (F64.max v params.tMinMs)) sr))
      exec (.aenvAtk ms) s = .next
        { s with aenv := { a with attackMs := v, attackInc := written inc }
                 sticky := stickyAfter [inc] [] s.sticky } ∧
      exec (.aenvDec ms) s = .next
        { s with aenv := { a with decayMs := v, decayCoef := written coef }
                 sticky := stickyAfter [coef] [] s.sticky } ∧
      exec (.aenvRel ms) s = .next
        { s with aenv := { a with releaseMs := v, releaseCoef := written coef }
                 sticky := stickyAfter [coef] [] s.sticky })

/-- Rule R157: AENV_PROC does one action of its stage and emits the level after it; the gate, the times
and the coefficients stay.  Where the computed level is not finite, the register gets 0, the comparison
reads that 0 and the word emitted is that of the level after it (rules R11, R23 and R262 as log entry 4
reads them); ERR_OVERFLOW is recorded once (rule R263, log entry 13). -/
def Obligations.AenvProcActsByStage : Prop :=
  ∀ (s : State) (sr : F64), s.aenv.sampleRate = some sr →
    let a := s.aenv
    let done (a' : Aenv) (raw : List F64) : State :=
      { s with aenv := a'
               resp := s.resp ++ [F64.r32 a'.level]
               sticky := stickyAfter raw [a'.level] s.sticky }
    let fallen (c : F64) : Aenv :=
      if F64.lt (written (F64.mul a.level c)) (F64.dec 1 4) then
        { a with level := F64.zero, stage := .idle }
      else { a with level := written (F64.mul a.level c) }
    let up := F64.add a.level a.attackInc
    (a.stage = .idle → exec .aenvProc s = .next (done a [])) ∧
    (a.stage = .attack → exec .aenvProc s = .next
      (done
        (if F64.ge (written up) F64.one then { a with level := F64.one, stage := .decay }
         else { a with level := written up })
        [up])) ∧
    (a.stage = .decay →
      exec .aenvProc s = .next (done (fallen a.decayCoef) [F64.mul a.level a.decayCoef])) ∧
    (a.stage = .release →
      exec .aenvProc s = .next (done (fallen a.releaseCoef) [F64.mul a.level a.releaseCoef]))

/-- Rule R159, second property: in Release, with level and coefficient in `[0, 1]`, a sample does not
raise the level, keeps it in `[0, 1]`, and stays in Release or goes Idle at level 0; and with a
coefficient below 1 some number of samples ends in Idle at level 0.  (A coefficient of 1, which `NUM`
can reach, never ends: log entry 8.) -/
def Obligations.ReleaseNeverRises : Prop :=
  ∀ (s : State) (sr : F64), s.aenv.sampleRate = some sr → s.aenv.stage = .release →
    inUnit s.aenv.level = true → inUnit s.aenv.releaseCoef = true →
    ∃ t, exec .aenvProc s = .next t ∧ F64.ge s.aenv.level t.aenv.level = true ∧
      inUnit t.aenv.level = true ∧ t.aenv.gate = s.aenv.gate ∧ t.sticky = s.sticky ∧
      (t.aenv.stage = .release ∨ (t.aenv.stage = .idle ∧ t.aenv.level = F64.zero)) ∧
      (F64.lt s.aenv.releaseCoef F64.one = true →
        ∃ n u, runCommands (List.replicate n .aenvProc) s = .next u ∧ u.aenv.stage = .idle ∧
          u.aenv.level = F64.zero)

/-! ### Modulation envelope (43_mod_envelope.md) -/

/-- Rules R180 to R182: MENV_SR and MENV_DEC store their parameter and recompute the coefficient where
the rate is set; the level stays.  A coefficient that is not finite is written as 0 and records
ERR_OVERFLOW (rules R23 and R262, log entry 13). -/
def Obligations.MenvSettersRecomputeTheCoefficient : Prop :=
  ∀ (w : Word) (s : State), f32Finite w = true →
    let m := s.menv
    let v := F64.ofF32 w
    let coef (ms sr : F64) := F64.exp (F64.div (F64.neg F64.one)
      (F64.mul (F64.mul (F64.dec 1 3) (F64.max ms params.tMinMs)) sr))
    let rate := F64.max v params.srMin
    exec (.menvSr w) s = .next
      { s with menv := { m with sampleRate := some rate, decayCoef := written (coef m.decayMs rate) }
               sticky := stickyAfter [coef m.decayMs rate] [] s.sticky } ∧
    (m.sampleRate = none → exec (.menvDec w) s = .next { s with menv := { m with decayMs := v } }) ∧
    (∀ sr, m.sampleRate = some sr →
      exec (.menvDec w) s = .next
        { s with menv := { m with decayMs := v, decayCoef := written (coef v sr) }
                 sticky := stickyAfter [coef v sr] [] s.sticky })

/-- Rules R184 and R33: MENV_PROC multiplies the level by its coefficient and emits the new level; with
both in `[0, 1]` the level does not rise and nothing overflows.  Where the product is not finite, the
register gets 0 and the word emitted is that of the register (rules R11, R23 and R262 as log entry 4
reads them); ERR_OVERFLOW is recorded once (rule R263, log entry 13). -/
def Obligations.MenvProcMultipliesAndNeverRises : Prop :=
  ∀ (s : State) (sr : F64), s.menv.sampleRate = some sr →
    let l := F64.mul s.menv.level s.menv.decayCoef
    exec .menvProc s = .next
      { s with menv := { s.menv with level := written l }
               resp := s.resp ++ [F64.r32 (written l)]
               sticky := stickyAfter [l] [written l] s.sticky } ∧
    (inUnit s.menv.level = true → inUnit s.menv.decayCoef = true →
      F64.ge s.menv.level l = true ∧ inUnit l = true ∧ stickyAfter [l] [written l] s.sticky = s.sticky)

/-- Rule R33: whatever the command, unless it is the trigger, the level of the modulation envelope does
not rise (the level and its coefficient being in `[0, 1]`, which every step keeps), and the trigger
sets it to exactly 1. -/
def Obligations.ModulationLevelNeverRisesBetweenTriggers : Prop :=
  (∀ (i : Instr) (s t : State), inUnit s.menv.level = true → inUnit s.menv.decayCoef = true →
    i ≠ .menvTrig → exec i s = .next t →
    F64.ge s.menv.level t.menv.level = true ∧ inUnit t.menv.level = true) ∧
  (∀ s : State, ∃ t, exec .menvTrig s = .next t ∧ t.menv.level = ⟨0x3FF0000000000000#64⟩)

/-! ### Ladder filter (44_ladder_filter.md) -/

/-- Rules R200, R206 to R209 and R36: FILT_SR, FILT_CUT and FILT_RES store their parameter (the resonance
floored at 0) and, where the rate is set, recompute `fc` and the coefficients; the accumulators stay.
Where `fc` is not finite, its register gets 0 and the coefficients are computed from that 0 (rules R11,
R23 and R262 as log entry 4 reads them); ERR_OVERFLOW is recorded once (rule R263, log entry 13).
`COEF` is spelled out in DefaultParametersAreTheSpecs. -/
def Obligations.FiltSettersReconfigure : Prop :=
  ∀ (w : Word) (s : State), f32Finite w = true →
    let f := s.filt
    let v := F64.ofF32 w
    let fcOf (cut sr : F64) := F64.clamp cut (F64.ofNat 5) (F64.mul (F64.dec 45 2) sr)
    let rs (r : F64) := F64.div (F64.sub F64.one (F64.exp (F64.mul (F64.neg (F64.ofNat 3)) r)))
      (F64.dec 9502129316 10)
    let configured (f' : Filt) (sr : F64) : State :=
      let fc := fcOf f'.cutoff sr
      let c := params.coef (written fc) sr (rs f'.resonance)
      { s with
        filt := { f' with
          fc := written fc, coefs := { b0 := written c.b0, k := written c.k, g := written c.g } }
        sticky := stickyAfter [fc, c.b0, c.k, c.g] [] s.sticky }
    let rate := F64.max v params.srMin
    let res := F64.max F64.zero v
    exec (.filtSr w) s = .next (configured { f with sampleRate := some rate } rate) ∧
    F64.ge res F64.zero = true ∧
    (f.sampleRate = none →
      exec (.filtCut w) s = .next { s with filt := { f with cutoff := v } } ∧
      exec (.filtRes w) s = .next { s with filt := { f with resonance := res } }) ∧
    (∀ sr, f.sampleRate = some sr →
      exec (.filtCut w) s = .next (configured { f with cutoff := v } sr) ∧
      exec (.filtRes w) s = .next (configured { f with resonance := res } sr))

/-- Rules R210 and R211: FILT_ENVMOD and FILT_FMAMT store the operand as given, and nothing else. -/
def Obligations.FiltDepthsAreStoredAsGiven : Prop :=
  ∀ (w : Word) (s : State), f32Finite w = true →
    exec (.filtEnvmod w) s = .next { s with filt := { s.filt with envMod := F64.ofF32 w } } ∧
    exec (.filtFmamt w) s = .next { s with filt := { s.filt with fmAmount := F64.ofF32 w } }

/-- Rules R200 and R212 to R214: FILT_PROC computes the offset (the FM term after the clamp), the
modulated cutoff, the coefficients, the feedback from the old top stage, the four stages and the
output `2 * g * y4`; no other unit changes.  Where a computed value is not finite, its register gets 0
(rules R23 and R262); `fc`, `b0` and `k` go on to later lines as computed, while the output is computed
from the register `y4` (rule R11 as log entries 4, 5 and 14 read it); ERR_OVERFLOW is recorded once (rule
R263, log entry 13).  `COEF`, `STAGE`, `HPF` and `SAT` are spelled out in DefaultParametersAreTheSpecs. -/
def Obligations.FiltProcFiltersOneSample : Prop :=
  ∀ (wIn wEnv wAcc wFm : Word) (s : State) (sr : F64), f32Finite wIn = true →
    f32Finite wEnv = true → f32Finite wAcc = true → f32Finite wFm = true →
    s.filt.sampleRate = some sr →
    let f := s.filt
    let env := F64.ofF32 wEnv
    let clamped := F64.clamp
      (F64.add (F64.mul f.envMod env) (params.accent (F64.ofF32 wAcc) env f.envMod f.cutoff))
      (F64.mul (F64.neg (F64.dec 95 2)) f.cutoff) (F64.mul (F64.ofNat 4) f.cutoff)
    let off :=
      if F64.lt params.fmEps (F64.abs f.fmAmount) then
        F64.add clamped
          (F64.mul (F64.mul (F64.mul f.fmAmount (F64.ofF32 wFm)) (F64.dec 5 1)) f.cutoff)
      else clamped
    let fc := F64.clamp (F64.add f.cutoff off) (F64.ofNat 5) (F64.mul (F64.dec 45 2) sr)
    let rs := F64.div (F64.sub F64.one (F64.exp (F64.mul (F64.neg (F64.ofNat 3)) f.resonance)))
      (F64.dec 9502129316 10)
    let c := params.coef fc sr rs
    let hp := params.hpf sr f.hpState (F64.mul c.k (params.sat f.y.y4))
    let y := params.stage (F64.sub (F64.ofF32 wIn) hp.1) f.y c.b0
    let out := F64.mul (F64.mul (F64.ofNat 2) c.g) (written y.y4)
    exec (.filtProc wIn wEnv wAcc wFm) s = .next
      { s with
        filt := { f with
          fc := written fc, coefs := { b0 := written c.b0, k := written c.k, g := written c.g },
          hpState := written hp.2,
          y := { y1 := written y.y1, y2 := written y.y2, y3 := written y.y3, y4 := written y.y4 },
          out := written out }
        resp := s.resp ++ [F64.r32 out]
        sticky := stickyAfter [fc, c.b0, c.k, c.g, hp.2, y.y1, y.y2, y.y3, y.y4, out] [out] s.sticky }

/-- Rule R213: where `0.45 * sampleRate` is at least 5, the cutoff that FILT_PROC stores lies between 5
and it, for every value it clamps that is a number. -/
def Obligations.ModulatedCutoffStaysInRange : Prop :=
  ∀ (wIn wEnv wAcc wFm : Word) (s : State) (sr : F64), f32Finite wIn = true →
    f32Finite wEnv = true → f32Finite wAcc = true → f32Finite wFm = true →
    s.filt.sampleRate = some sr → sr.isFinite = true →
    (F64.mul (F64.dec 45 2) sr).isFinite = true →
    F64.ge (F64.mul (F64.dec 45 2) sr) (F64.ofNat 5) = true →
    (F64.add s.filt.cutoff (modulationOffset params
      { input := F64.ofF32 wIn, env := F64.ofF32 wEnv, acc := F64.ofF32 wAcc,
        fm := F64.ofF32 wFm } s.filt)).isNaN = false →
    ∃ t, exec (.filtProc wIn wEnv wAcc wFm) s = .next t ∧
      F64.ge t.filt.fc (F64.ofNat 5) = true ∧ F64.ge (F64.mul (F64.dec 45 2) sr) t.filt.fc = true

/-- Rule R205 under the spec's default `ACCENT = 0` (log entry 1): the accent operand of FILT_PROC, if it is finite,
has no effect on the state or on the response. -/
def Obligations.AccentHasNoEffect : Prop :=
  ∀ (wIn wEnv acc acc' wFm : Word) (s : State), f32Finite acc = true → f32Finite acc' = true →
    exec (.filtProc wIn wEnv acc wFm) s = exec (.filtProc wIn wEnv acc' wFm) s

/-! ### Block commands (45_voice_control.md) -/

/-- Rule R243: PEEK of every assigned index.  An integer register is emitted as it is; a real one as
`r32`; an `unset` rate as the word 0; an unassigned index drops the command.  No register changes.
That an infinite `r32` records ERR_OVERFLOW (rules R261 and R263, against the "no side effect" of rule
R243) is log entry 13; that a glide count is its low 32 bits is log entry 15. -/
def Obligations.PeekReadsEveryRegister : Prop :=
  ∀ s : State,
    (∀ p ∈ [(0, statusWord s), (5, BitVec.ofNat 32 s.osc.glideSteps),
        (9, if s.osc.jc303 then 1#32 else 0#32), (16, (stageCode s.aenv.stage).setWidth 32),
        (18, if s.aenv.gate then 1#32 else 0#32)],
      exec (.peek (BitVec.ofNat 32 p.1)) s = .next { s with resp := s.resp ++ [p.2] }) ∧
    (∀ p ∈ [(1, s.osc.phase), (2, s.osc.subPhase), (3, s.osc.frequency), (4, s.osc.targetFrequency),
        (6, s.osc.glideMult), (7, s.osc.blend), (8, s.osc.subBlend), (11, s.osc.out),
        (17, s.aenv.level), (19, s.aenv.attackMs), (20, s.aenv.decayMs), (21, s.aenv.releaseMs),
        (23, s.aenv.attackInc), (24, s.aenv.decayCoef), (25, s.aenv.releaseCoef), (32, s.menv.level),
        (33, s.menv.decayMs), (35, s.menv.decayCoef), (48, s.filt.y.y1), (49, s.filt.y.y2),
        (50, s.filt.y.y3), (51, s.filt.y.y4), (52, s.filt.hpState), (53, s.filt.cutoff),
        (54, s.filt.resonance), (55, s.filt.envMod), (56, s.filt.fmAmount), (58, s.filt.fc),
        (59, s.filt.coefs.b0), (60, s.filt.coefs.k), (61, s.filt.coefs.g), (62, s.filt.out)],
      exec (.peek (BitVec.ofNat 32 p.1)) s = .next
        { s with resp := s.resp ++ [F64.r32 p.2], sticky := stickyAfter [] [p.2] s.sticky }) ∧
    (∀ p ∈ [(10, s.osc.sampleRate), (22, s.aenv.sampleRate), (34, s.menv.sampleRate),
        (57, s.filt.sampleRate)],
      (p.2 = none → exec (.peek (BitVec.ofNat 32 p.1)) s = .next { s with resp := s.resp ++ [0#32] }) ∧
      (∀ sr, p.2 = some sr → exec (.peek (BitVec.ofNat 32 p.1)) s = .next
        { s with resp := s.resp ++ [F64.r32 sr], sticky := stickyAfter [] [sr] s.sticky })) ∧
    (∀ index : Word, assignedIndex index = false →
      exec (.peek index) s = .next
        { s with resp := s.resp ++ [0x7FC00000#32], sticky := recordError .operand s.sticky })

/-- Rule R241: TICK runs the four bodies in the source's order, the filter fed with the oscillator's
sample and the two levels of the same sample at full precision (`env = m`, `acc = a`), and emits the
filtered sample and the amplitude level; ERR_OVERFLOW is recorded at most once.  Where a body overflows,
the filter gets the oscillator's sample as computed and the two levels as written (rules R11, R23 and
R262 as log entries 4 and 5 read them; the record is log entry 13). -/
def Obligations.TickAdvancesAllFourUnits : Prop :=
  ∀ (fm : Word) (s : State) (srO srA srM srF : F64), f32Finite fm = true →
    s.osc.sampleRate = some srO → s.aenv.sampleRate = some srA → s.menv.sampleRate = some srM →
    s.filt.sampleRate = some srF →
    let o := oscProcess params srO s.osc
    let a := aenvProcess binary64 s.aenv
    let m := menvProcess binary64 s.menv
    let y := filtProcess params srF
      { input := o.sample, env := m.sample, acc := a.sample, fm := F64.ofF32 fm } s.filt
    exec (.tick fm) s = .next
      { s with
        osc := o.unit, aenv := a.unit, menv := m.unit, filt := y.unit
        resp := s.resp ++ [F64.r32 y.sample, F64.r32 a.sample]
        sticky :=
          if o.overflow || a.overflow || m.overflow || y.overflow || F64.overflows32 y.sample
              || F64.overflows32 a.sample then recordError .overflow s.sticky
          else s.sticky }

/-- Rule R244: where the oscillator's sample and the two levels are binary32 values, TICK leaves the same
units and gives the same two words as OSC_PROC, AENV_PROC, MENV_PROC and FILT_PROC fed with what they
emitted. -/
def Obligations.TickEqualsTheFourUnitCommands : Prop :=
  ∀ (fm : Word) (s : State) (srO srA srM srF : F64), f32Finite fm = true →
    s.osc.sampleRate = some srO → s.aenv.sampleRate = some srA → s.menv.sampleRate = some srM →
    s.filt.sampleRate = some srF →
    let o := (oscProcess params srO s.osc).sample
    let a := (aenvProcess binary64 s.aenv).sample
    let m := (menvProcess binary64 s.menv).sample
    o.isFinite = true → a.isFinite = true → m.isFinite = true →
    F64.ofF32 (F64.r32 o) = o → F64.ofF32 (F64.r32 a) = a → F64.ofF32 (F64.r32 m) = m →
    ∃ t u y, exec (.tick fm) s = .next t ∧
      runCommands
        [.oscProc, .aenvProc, .menvProc, .filtProc (F64.r32 o) (F64.r32 m) (F64.r32 a) fm] s = .next u ∧
      sameUnits t u ∧ t.resp = s.resp ++ [y, F64.r32 a] ∧
      u.resp = s.resp ++ [F64.r32 o, F64.r32 a, F64.r32 m, y]

/-! ### Sequences of commands -/

/-- Rule R65: repeating a set command with the same operand leaves the units as the first one did. -/
def Obligations.RepeatingASetCommandChangesNothing : Prop :=
  ∀ (i : Instr) (s : State), isSetter i →
    ∃ t u, exec i s = .next t ∧ exec i t = .next u ∧ sameUnits t u

/-- Rule R293: a setter and its unit's set-sample-rate command give the same units in either order, in
every state and for every operand. -/
def Obligations.SettersCommuteWithTheRate : Prop :=
  ∀ (v hz : Word) (s : State),
    ∀ p ∈ [(Instr.aenvAtk v, Instr.aenvSr hz), (.aenvDec v, .aenvSr hz), (.aenvRel v, .aenvSr hz),
        (.menvDec v, .menvSr hz), (.filtCut v, .filtSr hz), (.filtRes v, .filtSr hz),
        (.filtEnvmod v, .filtSr hz), (.filtFmamt v, .filtSr hz), (.oscBlend v, .oscSr hz),
        (.oscSubblend v, .oscSr hz), (.oscWave v, .oscSr hz), (.oscJc303 v, .oscSr hz)],
      ∃ t u, runCommands [p.1, p.2] s = .next t ∧ runCommands [p.2, p.1] s = .next u ∧ sameUnits t u

/-- Rule R299: the three commands of a note dispatch (rule R292 step 4: OSC_FREQ or OSC_GLIDE, AENV_ON,
MENV_TRIG; the expansions NOTE and NOTE_GLIDE of rule R92) touch disjoint units, so their order has no
effect at all. -/
def Obligations.NoteDispatchOrderIsInvisible : Prop :=
  ∀ (hz ms : Word) (s : State),
    expandPseudo (.note hz) = [.oscFreq hz, .aenvOn, .menvTrig] ∧
    expandPseudo (.noteGlide hz ms) = [.oscGlide hz ms, .aenvOn, .menvTrig] ∧
    ∀ cmds : List Instr,
      (cmds.Perm [.oscFreq hz, .aenvOn, .menvTrig] →
        runCommands cmds s = runCommands [.oscFreq hz, .aenvOn, .menvTrig] s) ∧
      (cmds.Perm [.oscGlide hz ms, .aenvOn, .menvTrig] →
        runCommands cmds s = runCommands [.oscGlide hz ms, .aenvOn, .menvTrig] s)

/-! ### Invariants that every step keeps -/

/-- The reset state is legal in all three senses. -/
def Obligations.ResetStateIsLegal : Prop :=
  registersFinite State.reset = true ∧ controlLegal State.reset = true ∧
    signalsLegal State.reset = true

/-- Rules R22 and R23: from every state whose real registers are finite and whose rates are legal, a step
leads to such a state. -/
def Obligations.StepsKeepRegistersFinite : Prop :=
  ∀ s t : State, registersFinite s = true → step s = .next t → registersFinite t = true

/-- Rules R21, R24, R27, R36, R38, R41 and R261: a step keeps STATUS, the framing position, the resting
coefficients and the parameter registers legal. -/
def Obligations.StepsKeepControlLegal : Prop :=
  ∀ s t : State, controlLegal s = true → step s = .next t → controlLegal t = true

/-- Rules R25, R28 and R32: a step keeps the phases in `[0, 1)` and the levels and envelope coefficients
in `[0, 1]`.  (That a coefficient may be 1 is the model's `NUM`, log entry 8.) -/
def Obligations.StepsKeepSignalsLegal : Prop :=
  ∀ s t : State, registersFinite s = true → controlLegal s = true → signalsLegal s = true →
    step s = .next t → signalsLegal t = true

/-! ### Arithmetic (00_scope.md) -/

/-- Rule R12: `clamp` is `min(max(x, lo), hi)`, and gives `hi` where `lo > hi`. -/
def Obligations.ClampGivesTheUpperBoundWhenSwapped : Prop :=
  ∀ x lo hi : F64, F64.clamp x lo hi = F64.min (F64.max x lo) hi ∧
    (x.isNaN = false → F64.lt hi lo = true → F64.clamp x lo hi = hi)

/-- The default column of rule R7 (the model's parameters, log entry 1): the five constants as binary64
patterns, `BLEP`, `COEF`, `STAGE`, `HPF`, `SAT` and `ACCENT` operation by operation (rules R111 and R201
to R205; the reset values stand in ResetLeavesTheTableValues); and `exec`, `step` and the reset state
are the parametric ones at them. -/
def Obligations.DefaultParametersAreTheSpecs : Prop :=
  (params.srMin = ⟨0x3FF0000000000000#64⟩ ∧ params.freqMin = ⟨0x3F847AE147AE147B#64⟩ ∧
    params.tMinMs = ⟨0x3F50624DD2F1A9FC#64⟩ ∧ params.fmEps = ⟨0x0000000000000000#64⟩ ∧
    params.glideCntMax = 4294967295) ∧
  (∀ t dt : F64, params.blep t dt =
    if F64.lt t dt then
      let x := F64.div t dt
      F64.sub (F64.sub (F64.add x x) (F64.mul x x)) F64.one
    else if F64.lt (F64.sub F64.one dt) t then
      let x := F64.div (F64.sub t F64.one) dt
      F64.add (F64.add (F64.add (F64.mul x x) x) x) F64.one
    else F64.zero) ∧
  (∀ fc sr rs : F64, params.coef fc sr rs =
    let fx := F64.div fc (F64.mul sr (F64.sqrt (F64.ofNat 2)))
    let den := F64.add (F64.add F64.one (F64.mul (F64.dec 12358354 6) fx))
      (F64.mul (F64.mul (F64.dec 44156345 7) fx) fx)
    let poly := F64.mul fx (F64.add (F64.mul fx (F64.sub (F64.mul fx (F64.sub (F64.mul fx
      (F64.add fx (F64.dec 71986997 4))) (F64.dec 58377917 4))) (F64.dec 47647308 5)))
      (F64.dec 61495611 5))
    let k0 := F64.add (F64.mul fx (F64.add poly (F64.dec 21387126 5))) (F64.dec 16998792 6)
    { b0 := F64.div (F64.add (F64.dec 45522346 11) (F64.mul (F64.dec 61922189 7) fx)) den
      k := F64.mul k0 rs
      g := F64.mul
        (F64.add (F64.mul (F64.sub (F64.div k0 (F64.ofNat 17)) F64.one) rs) F64.one)
        (F64.add F64.one rs) }) ∧
  (∀ (y0 b0 : F64) (y : Stages), params.stage y0 y b0 =
    let two := F64.ofNat 2
    let y1 := F64.add y.y1 (F64.mul (F64.mul two b0) (F64.add (F64.sub y0 y.y1) y.y2))
    let y2 := F64.add y.y2 (F64.mul b0 (F64.add (F64.sub y1 (F64.mul two y.y2)) y.y3))
    let y3 := F64.add y.y3 (F64.mul b0 (F64.add (F64.sub y2 (F64.mul two y.y3)) y.y4))
    let y4 := F64.add y.y4 (F64.mul b0 (F64.sub y3 (F64.mul two y.y4)))
    { y1 := y1, y2 := y2, y3 := y3, y4 := y4 }) ∧
  (∀ sr st v : F64, params.hpf sr st v =
    let a := F64.sub F64.one (F64.exp (F64.div
      (F64.mul (F64.mul (F64.neg (F64.ofNat 2)) F64.pi) (F64.ofNat 150)) sr))
    let h := F64.sub v st
    (h, F64.add st (F64.mul a h))) ∧
  (∀ v : F64, params.sat v = F64.tanh v) ∧
  (∀ acc env envMod cutoff : F64, params.accent acc env envMod cutoff = F64.zero) ∧
  (∀ (i : Instr) (s : State), exec i s = execWith params i s ∧ step s = stepWith params s) ∧
  State.reset = State.resetWith params

/-- Rules R7 and R10: a sum, difference, product or quotient of finite values is the exact result
rounded to nearest, ties to even, the infinity of its sign where that overflows; so are the decimal
literals and integers the rules use (rule R8). -/
def Obligations.ArithmeticIsCorrectlyRounded : Prop :=
  (∀ x y : F64, x.isFinite = true → y.isFinite = true →
    Rounded (x.toRat + y.toRat) (F64.add x y) ∧ Rounded (x.toRat - y.toRat) (F64.sub x y) ∧
    Rounded (x.toRat * y.toRat) (F64.mul x y) ∧
    (y.isZero = false → Rounded (x.toRat / y.toRat) (F64.div x y))) ∧
  (∀ n k : Nat, Rounded ((n : ℝ) / 10 ^ k) (F64.dec n k) ∧ Rounded (n : ℝ) (F64.ofNat n))

/-- Rules R7 and R13: `sqrt`, `exp`, `tanh` and `pow` are the real functions rounded to nearest, and `pi`
is the circle constant so rounded.  For `exp`, `tanh` and `pow` it is said where the two bounds the model
rounds agree at one of its precisions (log entry 3); `pow` for a positive base and the exponents
`0 < b <= 1` that rule R118 raises to (log entry 12). -/
def Obligations.ElementaryFunctionsAreRounded : Prop :=
  (∀ x : F64, x.isFinite = true → F64.ge x F64.zero = true → Rounded (Real.sqrt x.toRat) (F64.sqrt x)) ∧
  (∀ x : F64, x.isFinite = true →
    (settled fun dir P => expFrac dir P (if x.isNeg then -(x.num : ℤ) else x.num) x.den) →
    Rounded (Real.exp x.toRat) (F64.exp x)) ∧
  (∀ x : F64, x.isFinite = true → (settled fun dir P => F64.tanhFrac dir P x.num x.den) →
    Rounded (Real.tanh x.toRat) (F64.tanh x)) ∧
  (∀ a b : F64, a.isFinite = true → F64.lt F64.zero a = true → F64.lt F64.zero b = true →
    F64.ge F64.one b = true →
    (b = F64.one ∨ settled fun dir P =>
      expFrac dir P (lnBound dir P a.num a.den * (b.num : ℤ)) (b.den <<< P)) →
    Rounded ((a.toRat : ℝ) ^ (b.toRat : ℝ)) (F64.pow a b)) ∧
  Rounded Real.pi F64.pi

/-- Rules R10, R12 and R13: on finite values `<`, `>=`, `max`, `min`, negation, absolute value and
`floor` are those of the numbers the values stand for. -/
def Obligations.ComparisonsAreExact : Prop :=
  ∀ x y : F64, x.isFinite = true → y.isFinite = true →
    (F64.lt x y = true ↔ x.toRat < y.toRat) ∧ (F64.ge x y = true ↔ y.toRat ≤ x.toRat) ∧
    (F64.max x y).toRat = max x.toRat y.toRat ∧ (F64.min x y).toRat = min x.toRat y.toRat ∧
    (F64.neg x).toRat = -x.toRat ∧ (F64.abs x).toRat = |x.toRat| ∧
    (F64.floor x).isFinite = true ∧ (F64.floor x).toRat = (⌊x.toRat⌋ : ℚ)

/-- Rule R9: an `F32` operand is converted exactly, and its conversion rounds back to the same word.  That
the word of a negative zero comes back as itself is the model's reading (PRESUMED, log entry 11). -/
def Obligations.PortOperandsConvertExactly : Prop :=
  ∀ w : Word, f32Finite w = true →
    (F64.ofF32 w).toRat = wordToRat w ∧ F64.r32 (F64.ofF32 w) = w

/-- Rules R9, R11 and R262: a result on the response port is the value rounded to binary32, to nearest,
ties to even, the infinity of its sign from the overflow threshold on; an infinity stays one, and a NaN
is `0x7FC00000`.  That the sign bit of the word is the value's also where the word is a zero is the
model's reading (PRESUMED, log entry 11): those rules give a zero no sign. -/
def Obligations.PortResultsAreNearest : Prop :=
  ∀ v : F64,
    (v.isFinite = true → Rounded32 v.toRat (F64.r32 v) ∧ (F64.r32 v).msb = v.isNeg) ∧
    (∀ neg, v = F64.inf neg → F64.r32 v = if neg then 0xFF800000#32 else 0x7F800000#32) ∧
    (v.isNaN = true → F64.r32 v = 0x7FC00000#32)

/-- Rule R13: the phase wrap `frac` of a value that is not negative lies in `[0, 1)`. -/
def Obligations.FracOfNonNegativeIsInHalfOpenUnit : Prop :=
  ∀ x : F64, x.isFinite = true → F64.ge x F64.zero = true → inHalfOpenUnit (F64.frac x) = true

/-- Rules R7 and R13: the fixed-point bounds that `exp` and `tanh` round enclose the real exponential. -/
def Obligations.ExponentialIsEnclosed : Prop :=
  ∀ P p d : Nat, 0 < d →
    (expBound 0 P p d : ℝ) ≤ 2 ^ P * Real.exp ((p : ℝ) / d) ∧
    2 ^ P * Real.exp ((p : ℝ) / d) ≤ (expBound 1 P p d : ℝ)

/-- Rules R7 and R13: the fixed-point bounds that `pow` rounds enclose the real logarithm. -/
def Obligations.LogarithmIsEnclosed : Prop :=
  ∀ P p d : Nat, 0 < p → 0 < d →
    (lnBound 0 P p d : ℝ) ≤ 2 ^ P * Real.log ((p : ℝ) / d) ∧
    2 ^ P * Real.log ((p : ℝ) / d) ≤ (lnBound 1 P p d : ℝ)
end

