-- ==== Sys2Proof/Laws/Parametric.lean ====
section
/-! SUPPORT. The default parameters: each operation of the default `NUM`, and `exec` and `step` as the
parametric ones at them. -/

namespace Sys2Proof.Machine

@[simp] theorem binary64_ofF32 : binary64.ofF32 = F64.ofF32 := rfl
@[simp] theorem binary64_r32 : binary64.r32 = F64.r32 := rfl
@[simp] theorem binary64_isFinite : binary64.isFinite = F64.isFinite := rfl
@[simp] theorem binary64_dec : binary64.dec = F64.dec := rfl
@[simp] theorem binary64_ofNat : binary64.ofNat = F64.ofNat := rfl
@[simp] theorem binary64_zero : binary64.zero = F64.zero := rfl
@[simp] theorem binary64_one : binary64.one = F64.one := rfl
@[simp] theorem binary64_pi : binary64.pi = F64.pi := rfl
@[simp] theorem binary64_neg : binary64.neg = F64.neg := rfl
@[simp] theorem binary64_abs : binary64.abs = F64.abs := rfl
@[simp] theorem binary64_add : binary64.add = F64.add := rfl
@[simp] theorem binary64_sub : binary64.sub = F64.sub := rfl
@[simp] theorem binary64_mul : binary64.mul = F64.mul := rfl
@[simp] theorem binary64_div : binary64.div = F64.div := rfl
@[simp] theorem binary64_lt : binary64.lt = F64.lt := rfl
@[simp] theorem binary64_ge : binary64.ge = F64.ge := rfl
@[simp] theorem binary64_max : binary64.max = F64.max := rfl
@[simp] theorem binary64_min : binary64.min = F64.min := rfl
@[simp] theorem binary64_floor : binary64.floor = F64.floor := rfl
@[simp] theorem binary64_ceilCount : binary64.ceilCount = F64.ceilCount := rfl
@[simp] theorem binary64_exp : binary64.exp = F64.exp := rfl
@[simp] theorem binary64_tanh : binary64.tanh = F64.tanh := rfl
@[simp] theorem binary64_sqrt : binary64.sqrt = F64.sqrt := rfl
@[simp] theorem binary64_pow : binary64.pow = F64.pow := rfl

@[simp] theorem binary64_frac (x : F64) : binary64.frac x = F64.frac x := rfl
@[simp] theorem binary64_clamp (x lo hi : F64) : binary64.clamp x lo hi = F64.clamp x lo hi := rfl
@[simp] theorem binary64_overflows32 (v : F64) : binary64.overflows32 v = F64.overflows32 v := rfl

@[simp] theorem params_num : params.num = binary64 := rfl

/-- `exec` is `execWith` at the default parameters. -/
theorem exec_eq_execWith (i : Instr) (s : State) : exec i s = execWith params i s := by
  cases i <;> rfl

/-- `step` is `stepWith` at the default parameters. -/
theorem step_eq_stepWith (s : State) : step s = stepWith params s := by
  have h : exec = execWith params := funext fun i => funext (exec_eq_execWith i)
  rw [step, stepWith, h]

end Sys2Proof.Machine
end

