-- ==== Sys2Proof/Laws/Rounding.lean ====
section
/-! SUPPORT. What the rounding operation can do, said once (rules R7 and R9 of 00_scope.md). -/

namespace Sys2Proof

/-- The rounded quotient is within half a unit, and even on a tie. -/
theorem nearestQuot_spec (n m : Nat) (hm : 0 < m) :
    2 * (nearestQuot n m * m) ≤ 2 * n + m ∧ 2 * n ≤ 2 * (nearestQuot n m * m) + m ∧
      (2 * (nearestQuot n m * m) = 2 * n + m ∨ 2 * n = 2 * (nearestQuot n m * m) + m →
        nearestQuot n m % 2 = 0) := by
  have hdiv : m * (n / m) + n % m = n := Nat.div_add_mod n m
  have hr : n % m < m := Nat.mod_lt n hm
  unfold nearestQuot
  dsimp only
  generalize n / m = q at *
  generalize n % m = r at *
  split
  · have : (q + 1) * m = m * q + m := by ring
    refine ⟨by omega, by omega, fun h => ?_⟩
    omega
  · have : q * m = m * q := by ring
    refine ⟨by omega, by omega, fun h => ?_⟩
    omega

theorem nearestQuot_le (n m : Nat) {b : Nat} (hm : 0 < m) (h : n ≤ b * m) : nearestQuot n m ≤ b := by
  obtain ⟨h1, -, h3⟩ := nearestQuot_spec n m hm
  by_contra hb
  have h4 : (b + 1) * m ≤ nearestQuot n m * m := Nat.mul_le_mul_right m (by omega)
  have h5 : (b + 1) * m = b * m + m := by ring
  omega

theorem le_nearestQuot (n m : Nat) {b : Nat} (hm : 0 < m) (h : b * m ≤ n) : b ≤ nearestQuot n m := by
  obtain ⟨-, h2, -⟩ := nearestQuot_spec n m hm
  by_contra hb
  have h4 : (nearestQuot n m + 1) * m ≤ b * m := Nat.mul_le_mul_right m (by omega)
  have h5 : (nearestQuot n m + 1) * m = nearestQuot n m * m + m := by ring
  omega

/-- The scale of the last place: the scaled quotient is below `2 ^ (f + 1)`, and at least `2 ^ f`
where the scale is not the subnormals'. -/
theorem unitExp_spec (f u p d : Nat) (hp : p ≠ 0) (hd : d ≠ 0) :
    p * 2 ^ u < d * 2 ^ (f + 1 + unitExp f u p d) ∧
      (unitExp f u p d = 0 ∨ d * 2 ^ (f + unitExp f u p d) ≤ p * 2 ^ u) := by
  have p1 := Nat.log2_self_le hp
  have p2 := Nat.lt_log2_self (n := p)
  have d1 := Nat.log2_self_le hd
  have d2 := Nat.lt_log2_self (n := d)
  unfold unitExp
  simp only [Nat.shiftLeft_eq]
  generalize Nat.log2 p = L at *
  generalize Nat.log2 d = D at *
  have up : p * 2 ^ u < 2 ^ (L + 1 + u) := by
    rw [Nat.pow_add]; exact Nat.mul_lt_mul_of_pos_right p2 (Nat.two_pow_pos u)
  have lo : 2 ^ (L + u) ≤ p * 2 ^ u := by rw [Nat.pow_add]; exact Nat.mul_le_mul_right _ p1
  split
  · rename_i h
    constructor
    · refine lt_of_lt_of_le up ?_
      calc 2 ^ (L + 1 + u) ≤ 2 ^ (D + (f + 1 + (L + u - D - f))) :=
            Nat.pow_le_pow_right (by omega) (by omega)
        _ = 2 ^ D * 2 ^ (f + 1 + (L + u - D - f)) := Nat.pow_add _ _ _
        _ ≤ _ := Nat.mul_le_mul_right _ d1
    · by_cases he : L + u - D - f = 0
      · exact .inl he
      right
      have e1 : f + (L + u - D - f) = L + u - D := by omega
      rw [e1]
      rcases Nat.le_total D L with hl | hl
      · have : D - L = 0 := by omega
        rw [this, Nat.pow_zero, Nat.mul_one] at h
        have e2 : L + u - D = (L - D) + u := by omega
        rw [e2, Nat.pow_add, ← Nat.mul_assoc]
        exact Nat.mul_le_mul_right _ h
      · have : L - D = 0 := by omega
        rw [this, Nat.pow_zero, Nat.mul_one] at h
        have e2 : u = (D - L) + (L + u - D) := by omega
        calc d * 2 ^ (L + u - D) ≤ p * 2 ^ (D - L) * 2 ^ (L + u - D) := Nat.mul_le_mul_right _ h
          _ = p * 2 ^ u := by rw [Nat.mul_assoc, ← Nat.pow_add, ← e2]
  · rename_i h
    rw [Nat.not_le] at h
    constructor
    · by_cases hc : D ≤ L + u
      · have key : p * 2 ^ u < d * 2 ^ (L + u - D) := by
          rcases Nat.le_total D L with hl | hl
          · have : D - L = 0 := by omega
            rw [this, Nat.pow_zero, Nat.mul_one] at h
            have e2 : L + u - D = (L - D) + u := by omega
            rw [e2, Nat.pow_add, ← Nat.mul_assoc]
            exact Nat.mul_lt_mul_of_pos_right h (Nat.two_pow_pos u)
          · have : L - D = 0 := by omega
            rw [this, Nat.pow_zero, Nat.mul_one] at h
            have e2 : u = (D - L) + (L + u - D) := by omega
            calc p * 2 ^ u = p * 2 ^ (D - L) * 2 ^ (L + u - D) := by
                  rw [Nat.mul_assoc, ← Nat.pow_add, ← e2]
              _ < _ := Nat.mul_lt_mul_of_pos_right h (Nat.two_pow_pos _)
        exact lt_of_lt_of_le key
          (Nat.mul_le_mul_left _ (Nat.pow_le_pow_right (by omega) (by omega)))
      · refine lt_of_lt_of_le up ?_
        calc 2 ^ (L + 1 + u) ≤ 2 ^ (D + (f + 1 + (L + u - D - 1 - f))) :=
              Nat.pow_le_pow_right (by omega) (by omega)
          _ = 2 ^ D * 2 ^ (f + 1 + (L + u - D - 1 - f)) := Nat.pow_add _ _ _
          _ ≤ _ := Nat.mul_le_mul_right _ d1
    · by_cases he : L + u - D - 1 - f = 0
      · exact .inl he
      right
      have e1 : f + (L + u - D - 1 - f) = L + u - D - 1 := by omega
      rw [e1]
      refine le_trans (Nat.le_of_lt ?_) lo
      calc d * 2 ^ (L + u - D - 1) < 2 ^ (D + 1) * 2 ^ (L + u - D - 1) :=
            Nat.mul_lt_mul_of_pos_right d2 (Nat.two_pow_pos _)
        _ = 2 ^ (L + u) := by rw [← Nat.pow_add]; congr 1; omega

/-- Both sides of the quotient `roundMag` rounds, brought to the scale of `p * 2 ^ u` and `d * 2 ^ e`. -/
theorem scaled_sides (p d u e : Nat) :
    ∃ c, p <<< (u - e) * 2 ^ c = p * 2 ^ u ∧ d <<< (e - u) * 2 ^ c = d * 2 ^ e := by
  rcases Nat.le_total e u with h | h
  · refine ⟨e, ?_, ?_⟩ <;> rw [Nat.shiftLeft_eq, Nat.mul_assoc, ← Nat.pow_add]
    · congr 2; omega
    · congr 2; omega
  · refine ⟨u, ?_, ?_⟩ <;> rw [Nat.shiftLeft_eq, Nat.mul_assoc, ← Nat.pow_add]
    · congr 2; omega
    · congr 2; omega

/-- Everything `roundMag` can do: the pattern is `e * 2 ^ f + q` (or the infinity, if that is less),
where `q` times the unit `2 ^ (e - u)` is within half a unit of `p / d`, `q` is even on a tie, and
`p / d` (and with it `q`) is at least `2 ^ f` units unless the scale is the subnormals', and less than
`2 ^ (f + 1)` units. -/
theorem roundMag_spec (f u top p d : Nat) (hp : p ≠ 0) (hd : d ≠ 0) :
    ∃ e q, roundMag f u top p d = min top (e * 2 ^ f + q) ∧ (e = 0 ∨ 2 ^ f ≤ q) ∧ q ≤ 2 ^ (f + 1) ∧
      (e = 0 ∨ d * 2 ^ (f + e) ≤ p * 2 ^ u) ∧ p * 2 ^ u < d * 2 ^ (f + 1 + e) ∧
      2 * (q * (d * 2 ^ e)) ≤ 2 * (p * 2 ^ u) + d * 2 ^ e ∧
      2 * (p * 2 ^ u) ≤ 2 * (q * (d * 2 ^ e)) + d * 2 ^ e ∧
      (2 * (q * (d * 2 ^ e)) = 2 * (p * 2 ^ u) + d * 2 ^ e ∨
        2 * (p * 2 ^ u) = 2 * (q * (d * 2 ^ e)) + d * 2 ^ e → q % 2 = 0) := by
  obtain ⟨hup, hlo⟩ := unitExp_spec f u p d hp hd
  obtain ⟨c, hn, hm⟩ := scaled_sides p d u (unitExp f u p d)
  generalize he : unitExp f u p d = e at *
  have hmpos : 0 < d <<< (e - u) := by
    rw [Nat.shiftLeft_eq]; exact Nat.mul_pos (Nat.pos_of_ne_zero hd) (Nat.two_pow_pos _)
  have hc : 0 < 2 ^ c := Nat.two_pow_pos c
  obtain ⟨s1, s2, s3⟩ := nearestQuot_spec (p <<< (u - e)) (d <<< (e - u)) hmpos
  have q1 : nearestQuot (p <<< (u - e)) (d <<< (e - u)) ≤ 2 ^ (f + 1) := by
    refine nearestQuot_le _ _ hmpos (Nat.le_of_mul_le_mul_right ?_ hc)
    rw [hn, Nat.mul_assoc, hm]
    calc p * 2 ^ u ≤ d * 2 ^ (f + 1 + e) := Nat.le_of_lt hup
      _ = 2 ^ (f + 1) * (d * 2 ^ e) := by rw [Nat.pow_add]; ring
  have q2 : e = 0 ∨ 2 ^ f ≤ nearestQuot (p <<< (u - e)) (d <<< (e - u)) := by
    refine hlo.imp id fun h => le_nearestQuot _ _ hmpos (Nat.le_of_mul_le_mul_right ?_ hc)
    rw [hn, Nat.mul_assoc, hm]
    calc 2 ^ f * (d * 2 ^ e) = d * 2 ^ (f + e) := by rw [Nat.pow_add]; ring
      _ ≤ _ := h
  refine ⟨e, nearestQuot (p <<< (u - e)) (d <<< (e - u)), ?_, q2, q1, hlo, hup, ?_, ?_, ?_⟩
  · simp [roundMag, hp, he, Nat.shiftLeft_eq]
  all_goals
    rw [← hn, ← hm]
    generalize nearestQuot (p <<< (u - e)) (d <<< (e - u)) = q at *
    generalize p <<< (u - e) = n at *
    generalize d <<< (e - u) = m at *
    generalize 2 ^ c = k at *
  · have := Nat.mul_le_mul_right k s1
    calc 2 * (q * (m * k)) = 2 * (q * m) * k := by ring
      _ ≤ (2 * n + m) * k := this
      _ = _ := by ring
  · have := Nat.mul_le_mul_right k s2
    calc 2 * (n * k) = 2 * n * k := by ring
      _ ≤ (2 * (q * m) + m) * k := this
      _ = _ := by ring
  · intro h
    refine s3 (h.imp (fun h => ?_) (fun h => ?_))
    · refine Nat.eq_of_mul_eq_mul_right hc ?_
      calc 2 * (q * m) * k = 2 * (q * (m * k)) := by ring
        _ = 2 * (n * k) + m * k := h
        _ = _ := by ring
    · refine Nat.eq_of_mul_eq_mul_right hc ?_
      calc 2 * n * k = 2 * (n * k) := by ring
        _ = 2 * (q * (m * k)) + m * k := h
        _ = _ := by ring

theorem roundMag_le_top (f u top p d : Nat) : roundMag f u top p d ≤ top := by
  unfold roundMag; split
  · exact Nat.zero_le _
  · exact Nat.min_le_left _ _

@[simp] theorem roundMag_zero (f u top d : Nat) : roundMag f u top 0 d = 0 := by simp [roundMag]

end Sys2Proof
end

