-- ==== Sys2Proof/Laws/Num.lean ====
section
/-! SUPPORT. The fields of packed values, finiteness, and the operations on registers' values. -/

namespace Sys2Proof

/-- A rational below `2 ^ (f + k) / 2 ^ u` rounds to a pattern of at most that power of two. -/
theorem roundMag_le_pow {f u top p d k : Nat} (hd : d ≠ 0) (hk : 1 ≤ k)
    (h : p * 2 ^ u < d * 2 ^ (f + k)) : roundMag f u top p d ≤ (k + 1) * 2 ^ f := by
  by_cases hp : p = 0
  · simp [hp]
  obtain ⟨e, q, hr, -, hq, hlo, -, -⟩ := roundMag_spec f u top p d hp hd
  have e2 : 2 ^ (f + 1) = 2 * 2 ^ f := by rw [Nat.pow_succ]; ring
  rw [hr]
  refine le_trans (Nat.min_le_right _ _) ?_
  have hek : e + 1 ≤ k := by
    rcases hlo with rfl | hlo
    · exact hk
    by_contra hlt
    have : d * 2 ^ (f + k) ≤ d * 2 ^ (f + e) :=
      Nat.mul_le_mul_left _ (Nat.pow_le_pow_right (by omega) (by omega))
    omega
  calc e * 2 ^ f + q ≤ e * 2 ^ f + 2 * 2 ^ f := by omega
    _ = (e + 2) * 2 ^ f := by ring
    _ ≤ _ := Nat.mul_le_mul_right _ (by omega)

/-- A significand below `2 ^ c`, scaled by a power of two, against a power of two. -/
theorem scaled_lt {m a b c u k : Nat} (hm : m < 2 ^ c) (hk : c + (a - b) + u ≤ (b - a) + k) :
    m <<< (a - b) * 2 ^ u < 1 <<< (b - a) * 2 ^ k := by
  rw [Nat.shiftLeft_eq, Nat.shiftLeft_eq, Nat.one_mul]
  calc m * 2 ^ (a - b) * 2 ^ u < 2 ^ c * 2 ^ (a - b) * 2 ^ u :=
        Nat.mul_lt_mul_of_pos_right (Nat.mul_lt_mul_of_pos_right hm (Nat.two_pow_pos _))
          (Nat.two_pow_pos _)
    _ = 2 ^ (c + (a - b) + u) := by rw [← Nat.pow_add, ← Nat.pow_add]
    _ ≤ 2 ^ ((b - a) + k) := Nat.pow_le_pow_right (by omega) hk
    _ = _ := Nat.pow_add _ _ _

namespace F64

/-! ### Packed values -/

theorem pack_toNat (s : Bool) {m : Nat} (h : m < 2 ^ 63) :
    (pack s m).bits.toNat = (if s then 2 ^ 63 else 0) + m := by
  unfold pack
  rw [BitVec.toNat_ofNat]
  apply Nat.mod_eq_of_lt
  cases s <;> simp <;> omega

theorem pack_isNeg (s : Bool) {m : Nat} (h : m < 2 ^ 63) : (pack s m).isNeg = s := by
  unfold isNeg
  rw [pack_toNat s h]
  cases s
  · simp; omega
  · simp; omega

/-- A pattern below the infinity is a finite value. -/
theorem pack_isFinite (s : Bool) {m : Nat} (h : m < top64) : (pack s m).isFinite = true := by
  have hm : m < 2 ^ 63 := lt_of_lt_of_le h (by decide)
  unfold isFinite expo
  rw [pack_toNat s hm]
  unfold top64 at h
  cases s <;> simp <;> omega

theorem not_isNaN_of_isFinite {x : F64} (h : x.isFinite = true) : x.isNaN = false := by
  unfold isFinite at h; unfold isNaN
  simp_all

@[simp] theorem zero_isFinite : zero.isFinite = true := by decide
@[simp] theorem one_isFinite : one.isFinite = true := by decide

/-- Every finite binary32 word converts to a finite value: the widest is below `2 ^ 128`. -/
theorem ofF32_isFinite {w : Word} (h : Machine.f32Finite w = true) : (ofF32 w).isFinite = true := by
  have key : ∀ (s : Bool) (m a : Nat), m < 2 ^ 24 → a ≤ 254 → (roundScaled s m a 150).isFinite = true := by
    intro s m a hm ha
    unfold roundScaled round
    apply pack_isFinite
    refine lt_of_le_of_lt (roundMag_le_pow (k := 1150) ?_ (by omega) ?_) (by decide)
    · rw [Nat.shiftLeft_eq]; positivity
    · exact scaled_lt hm (by omega)
  unfold Machine.f32Finite at h
  unfold ofF32
  have he : w.toNat / 2 ^ 23 % 2 ^ 8 < 256 := Nat.mod_lt _ (by decide)
  have hm : w.toNat % 2 ^ 23 < 2 ^ 23 := Nat.mod_lt _ (by decide)
  generalize w.toNat / 2 ^ 23 % 2 ^ 8 = e at *
  generalize w.toNat % 2 ^ 23 = m at *
  have he' : e ≠ 255 := by simpa using h
  simp only [he', if_false]
  split
  · exact key _ _ _ (by omega) (by omega)
  · exact key _ _ _ (by omega) (by omega)

end F64

namespace Machine

/-! ### Register writes -/

/-- What the default `NUM` writes to a register, in the terms of the statements. -/
@[simp] theorem settle_binary64 (v : F64) : settle binary64 v = written v := rfl

theorem written_of_finite {v : F64} (h : v.isFinite = true) : written v = v := by simp [written, h]

theorem written_of_nonfinite {v : F64} (h : v.isFinite = false) : written v = F64.zero := by
  simp [written, h]

/-- Whatever was computed, the register holds a finite value (rule R23). -/
@[simp] theorem written_isFinite (v : F64) : (written v).isFinite = true := by
  cases h : v.isFinite
  · rw [written_of_nonfinite h]; exact F64.zero_isFinite
  · rw [written_of_finite h, h]

@[simp] theorem anyNonfinite_nil : anyNonfinite binary64 [] = false := rfl

@[simp] theorem anyNonfinite_cons (v : F64) (vs : List F64) :
    anyNonfinite binary64 (v :: vs) = (!v.isFinite || anyNonfinite binary64 vs) := rfl

/-- `<` is a strict order. -/
theorem lt_asymm {a b : F64} (h : F64.lt a b = true) : F64.lt b a = false := by
  unfold F64.lt at *
  simp only [Bool.and_eq_true, decide_eq_true_eq] at h
  have : ¬ b.orderKey < a.orderKey := by omega
  simp [this]

/-- The answer of `max` is one of its operands, and it is not less than the other. -/
theorem max_cases (a b : F64) :
    (F64.max a b = a ∧ F64.lt a b = false) ∨ (F64.max a b = b ∧ F64.lt b a = false) := by
  cases h1 : F64.lt a b
  · cases h2 : F64.lt b a
    · by_cases h3 : a = b
      · exact .inl ⟨by simp [F64.max, h3], rfl⟩
      · cases h4 : Config.maxPicksFirst a b
        · exact .inr ⟨by simp [F64.max, h1, h2, h3, h4], rfl⟩
        · exact .inl ⟨by simp [F64.max, h1, h2, h4], rfl⟩
    · exact .inl ⟨by simp [F64.max, h1, h2], rfl⟩
  · exact .inr ⟨by simp [F64.max, h1], lt_asymm h1⟩

/-- The answer of `min` is one of its operands, and the other is not less than it. -/
theorem min_cases (a b : F64) :
    (F64.min a b = a ∧ F64.lt b a = false) ∨ (F64.min a b = b ∧ F64.lt a b = false) := by
  cases h1 : F64.lt a b
  · cases h2 : F64.lt b a
    · by_cases h3 : a = b
      · exact .inl ⟨by simp [F64.min, h3], rfl⟩
      · cases h4 : Config.minPicksFirst a b
        · exact .inr ⟨by simp [F64.min, h1, h2, h3, h4], rfl⟩
        · exact .inl ⟨by simp [F64.min, h1, h2, h4], rfl⟩
    · exact .inr ⟨by simp [F64.min, h1, h2], rfl⟩
  · exact .inl ⟨by simp [F64.min, h1], lt_asymm h1⟩

theorem max_isFinite {a b : F64} (ha : a.isFinite = true) (hb : b.isFinite = true) :
    (F64.max a b).isFinite = true := by
  rcases max_cases a b with ⟨h, -⟩ | ⟨h, -⟩ <;> rw [h] <;> assumption

theorem min_isFinite {a b : F64} (ha : a.isFinite = true) (hb : b.isFinite = true) :
    (F64.min a b).isFinite = true := by
  rcases min_cases a b with ⟨h, -⟩ | ⟨h, -⟩ <;> rw [h] <;> assumption

end Machine

end Sys2Proof
end

