-- ==== Sys2Proof/Laws/State.lean ====
section
/-! SUPPORT. One lemma per field of State and per update of it. -/

namespace Sys2Proof.Machine

/-! ### emitWords -/

@[simp] theorem emitWords_osc (ws : List Word) (s : State) :
    (emitWords ws s).osc = s.osc := rfl

@[simp] theorem emitWords_aenv (ws : List Word) (s : State) :
    (emitWords ws s).aenv = s.aenv := rfl

@[simp] theorem emitWords_menv (ws : List Word) (s : State) :
    (emitWords ws s).menv = s.menv := rfl

@[simp] theorem emitWords_filt (ws : List Word) (s : State) :
    (emitWords ws s).filt = s.filt := rfl

@[simp] theorem emitWords_sticky (ws : List Word) (s : State) :
    (emitWords ws s).sticky = s.sticky := rfl

@[simp] theorem emitWords_framing (ws : List Word) (s : State) :
    (emitWords ws s).framing = s.framing := rfl

@[simp] theorem emitWords_resp (ws : List Word) (s : State) :
    (emitWords ws s).resp = s.resp ++ ws := rfl

@[simp] theorem emitWords_cmdPort (ws : List Word) (s : State) :
    (emitWords ws s).cmdPort = s.cmdPort := rfl

@[simp] theorem emitWords_resetIn (ws : List Word) (s : State) :
    (emitWords ws s).resetIn = s.resetIn := rfl

/-! ### raiseError -/

@[simp] theorem raiseError_osc (e : ErrCode) (s : State) :
    (raiseError e s).osc = s.osc := rfl

@[simp] theorem raiseError_aenv (e : ErrCode) (s : State) :
    (raiseError e s).aenv = s.aenv := rfl

@[simp] theorem raiseError_menv (e : ErrCode) (s : State) :
    (raiseError e s).menv = s.menv := rfl

@[simp] theorem raiseError_filt (e : ErrCode) (s : State) :
    (raiseError e s).filt = s.filt := rfl

@[simp] theorem raiseError_sticky (e : ErrCode) (s : State) :
    (raiseError e s).sticky = recordError e s.sticky := rfl

@[simp] theorem raiseError_framing (e : ErrCode) (s : State) :
    (raiseError e s).framing = s.framing := rfl

@[simp] theorem raiseError_resp (e : ErrCode) (s : State) :
    (raiseError e s).resp = s.resp := rfl

@[simp] theorem raiseError_cmdPort (e : ErrCode) (s : State) :
    (raiseError e s).cmdPort = s.cmdPort := rfl

@[simp] theorem raiseError_resetIn (e : ErrCode) (s : State) :
    (raiseError e s).resetIn = s.resetIn := rfl

/-! ### dropCommand -/

@[simp] theorem dropCommand_osc (e : ErrCode) (n : Nat) (s : State) :
    (dropCommand e n s).osc = s.osc := rfl

@[simp] theorem dropCommand_aenv (e : ErrCode) (n : Nat) (s : State) :
    (dropCommand e n s).aenv = s.aenv := rfl

@[simp] theorem dropCommand_menv (e : ErrCode) (n : Nat) (s : State) :
    (dropCommand e n s).menv = s.menv := rfl

@[simp] theorem dropCommand_filt (e : ErrCode) (n : Nat) (s : State) :
    (dropCommand e n s).filt = s.filt := rfl

@[simp] theorem dropCommand_sticky (e : ErrCode) (n : Nat) (s : State) :
    (dropCommand e n s).sticky = recordError e s.sticky := rfl

@[simp] theorem dropCommand_framing (e : ErrCode) (n : Nat) (s : State) :
    (dropCommand e n s).framing = s.framing := rfl

@[simp] theorem dropCommand_resp (e : ErrCode) (n : Nat) (s : State) :
    (dropCommand e n s).resp = s.resp ++ List.replicate n quietNaN := rfl

@[simp] theorem dropCommand_cmdPort (e : ErrCode) (n : Nat) (s : State) :
    (dropCommand e n s).cmdPort = s.cmdPort := rfl

@[simp] theorem dropCommand_resetIn (e : ErrCode) (n : Nat) (s : State) :
    (dropCommand e n s).resetIn = s.resetIn := rfl

/-- Reset with the default parameters is the reset state. -/
@[simp] theorem resetWith_params : State.resetWith params = State.reset := rfl

/-! ### resetRegisters -/

@[simp] theorem resetRegisters_osc (P : Params) (s : State) :
    (resetRegisters P s).osc = (State.resetWith P).osc := rfl

@[simp] theorem resetRegisters_aenv (P : Params) (s : State) :
    (resetRegisters P s).aenv = (State.resetWith P).aenv := rfl

@[simp] theorem resetRegisters_menv (P : Params) (s : State) :
    (resetRegisters P s).menv = (State.resetWith P).menv := rfl

@[simp] theorem resetRegisters_filt (P : Params) (s : State) :
    (resetRegisters P s).filt = (State.resetWith P).filt := rfl

@[simp] theorem resetRegisters_sticky (P : Params) (s : State) :
    (resetRegisters P s).sticky = (State.resetWith P).sticky := rfl

@[simp] theorem resetRegisters_framing (P : Params) (s : State) :
    (resetRegisters P s).framing = .waiting := rfl

@[simp] theorem resetRegisters_resp (P : Params) (s : State) :
    (resetRegisters P s).resp = s.resp := rfl

@[simp] theorem resetRegisters_cmdPort (P : Params) (s : State) :
    (resetRegisters P s).cmdPort = s.cmdPort := rfl

@[simp] theorem resetRegisters_resetIn (P : Params) (s : State) :
    (resetRegisters P s).resetIn = s.resetIn := rfl

/-! ### applyResetInput -/

@[simp] theorem applyResetInput_osc (P : Params) (s : State) :
    (applyResetInput P s).osc = (State.resetWith P).osc := rfl

@[simp] theorem applyResetInput_aenv (P : Params) (s : State) :
    (applyResetInput P s).aenv = (State.resetWith P).aenv := rfl

@[simp] theorem applyResetInput_menv (P : Params) (s : State) :
    (applyResetInput P s).menv = (State.resetWith P).menv := rfl

@[simp] theorem applyResetInput_filt (P : Params) (s : State) :
    (applyResetInput P s).filt = (State.resetWith P).filt := rfl

@[simp] theorem applyResetInput_sticky (P : Params) (s : State) :
    (applyResetInput P s).sticky = (State.resetWith P).sticky := rfl

@[simp] theorem applyResetInput_framing (P : Params) (s : State) :
    (applyResetInput P s).framing = .waiting := rfl

@[simp] theorem applyResetInput_resp (P : Params) (s : State) :
    (applyResetInput P s).resp = [] := rfl

@[simp] theorem applyResetInput_cmdPort (P : Params) (s : State) :
    (applyResetInput P s).cmdPort = [] := rfl

@[simp] theorem applyResetInput_resetIn (P : Params) (s : State) :
    (applyResetInput P s).resetIn = s.resetIn := rfl

/-! ### host port -/

/-- While the reset input is asserted the words offered are refused. -/
theorem offer_of_resetIn {s : State} (h : s.resetIn = true) (ws : List Word) : s.offer ws = s := by
  simp [State.offer, h]

/-- With the reset input released the words offered stand behind those already on the port. -/
theorem offer_of_released {s : State} (h : s.resetIn = false) (ws : List Word) :
    s.offer ws = { s with cmdPort := s.cmdPort ++ ws } := by
  simp [State.offer, h]

@[simp] theorem offer_cmdPort (s : State) (ws : List Word) :
    (s.offer ws).cmdPort = s.cmdPort ++ if s.resetIn then [] else ws := by
  unfold State.offer; split <;> simp_all

@[simp] theorem offer_osc (s : State) (ws : List Word) :
    (s.offer ws).osc = s.osc := by
  unfold State.offer; split <;> rfl

@[simp] theorem offer_aenv (s : State) (ws : List Word) :
    (s.offer ws).aenv = s.aenv := by
  unfold State.offer; split <;> rfl

@[simp] theorem offer_menv (s : State) (ws : List Word) :
    (s.offer ws).menv = s.menv := by
  unfold State.offer; split <;> rfl

@[simp] theorem offer_filt (s : State) (ws : List Word) :
    (s.offer ws).filt = s.filt := by
  unfold State.offer; split <;> rfl

@[simp] theorem offer_sticky (s : State) (ws : List Word) :
    (s.offer ws).sticky = s.sticky := by
  unfold State.offer; split <;> rfl

@[simp] theorem offer_framing (s : State) (ws : List Word) :
    (s.offer ws).framing = s.framing := by
  unfold State.offer; split <;> rfl

@[simp] theorem offer_resp (s : State) (ws : List Word) :
    (s.offer ws).resp = s.resp := by
  unfold State.offer; split <;> rfl

@[simp] theorem offer_resetIn (s : State) (ws : List Word) :
    (s.offer ws).resetIn = s.resetIn := by
  unfold State.offer; split <;> rfl

@[simp] theorem withFetchWord_osc (s : State) (nbits w : Nat) :
    (s.withFetchWord nbits w).osc = s.osc := rfl

@[simp] theorem withFetchWord_aenv (s : State) (nbits w : Nat) :
    (s.withFetchWord nbits w).aenv = s.aenv := rfl

@[simp] theorem withFetchWord_menv (s : State) (nbits w : Nat) :
    (s.withFetchWord nbits w).menv = s.menv := rfl

@[simp] theorem withFetchWord_filt (s : State) (nbits w : Nat) :
    (s.withFetchWord nbits w).filt = s.filt := rfl

@[simp] theorem withFetchWord_sticky (s : State) (nbits w : Nat) :
    (s.withFetchWord nbits w).sticky = s.sticky := rfl

@[simp] theorem withFetchWord_framing (s : State) (nbits w : Nat) :
    (s.withFetchWord nbits w).framing = .waiting := rfl

@[simp] theorem withFetchWord_resp (s : State) (nbits w : Nat) :
    (s.withFetchWord nbits w).resp = s.resp := rfl

@[simp] theorem withFetchWord_cmdPort (s : State) (nbits w : Nat) :
    (s.withFetchWord nbits w).cmdPort = tableWords nbits w ++ s.cmdPort := rfl

@[simp] theorem withFetchWord_resetIn (s : State) (nbits w : Nat) :
    (s.withFetchWord nbits w).resetIn = false := rfl

/-! ### complete -/

@[simp] theorem complete_osc (N : Arith) (b : Bool) (out : List F64) (s : State) :
    (complete N b out s).osc = s.osc := by
  unfold complete; split <;> rfl

@[simp] theorem complete_aenv (N : Arith) (b : Bool) (out : List F64) (s : State) :
    (complete N b out s).aenv = s.aenv := by
  unfold complete; split <;> rfl

@[simp] theorem complete_menv (N : Arith) (b : Bool) (out : List F64) (s : State) :
    (complete N b out s).menv = s.menv := by
  unfold complete; split <;> rfl

@[simp] theorem complete_filt (N : Arith) (b : Bool) (out : List F64) (s : State) :
    (complete N b out s).filt = s.filt := by
  unfold complete; split <;> rfl

@[simp] theorem complete_framing (N : Arith) (b : Bool) (out : List F64) (s : State) :
    (complete N b out s).framing = s.framing := by
  unfold complete; split <;> rfl

@[simp] theorem complete_resp (N : Arith) (b : Bool) (out : List F64) (s : State) :
    (complete N b out s).resp = s.resp ++ out.map N.r32 := by
  unfold complete; split <;> rfl

@[simp] theorem complete_cmdPort (N : Arith) (b : Bool) (out : List F64) (s : State) :
    (complete N b out s).cmdPort = s.cmdPort := by
  unfold complete; split <;> rfl

@[simp] theorem complete_resetIn (N : Arith) (b : Bool) (out : List F64) (s : State) :
    (complete N b out s).resetIn = s.resetIn := by
  unfold complete; split <;> rfl

/-- The sticky bits after a completed command: ERR_OVERFLOW is recorded when a register's value or an
emitted value overflowed (rule R263), and nothing otherwise. -/
theorem complete_sticky (N : Arith) (b : Bool) (out : List F64) (s : State) :
    (complete N b out s).sticky =
      if b || out.any N.overflows32 then recordError .overflow s.sticky else s.sticky := by
  unfold complete; split <;> rfl

/-- A command that overflows nothing and emits nothing leaves the state its writes made. -/
@[simp] theorem complete_quiet (N : Arith) (s : State) : complete N false [] s = s := by
  simp [complete, emitWords]

/-- Everything `complete` does: it appends the words and records the overflow, if there is one. -/
theorem complete_eq (N : Arith) (b : Bool) (out : List F64) (s : State) :
    complete N b out s =
      { s with
        resp := s.resp ++ out.map N.r32
        sticky := if b || out.any N.overflows32 then recordError .overflow s.sticky
                  else s.sticky } := by
  unfold complete; split <;> rfl

end Sys2Proof.Machine
end

