-- ==== Sys2Proof/Laws/Ops.lean ====
section
/-! SUPPORT. For each shared operation, what it can do. -/

namespace Sys2Proof.Machine

/-! ### Errors -/

theorem recordError_first (e : ErrCode) (t : Sticky) (h : t.err = false) :
    recordError e t = { t with err := true, cause := errCode e } := by simp [recordError, h]

theorem recordError_later (e : ErrCode) (t : Sticky) (h : t.err = true) :
    recordError e t = { t with multi := true } := by simp [recordError, h]

@[simp] theorem recordError_err (e : ErrCode) (t : Sticky) : (recordError e t).err = true := by
  cases h : t.err <;> simp [recordError, h]

/-- An error code is never 0 and at most 6 (rule R261). -/
theorem errCode_range (e : ErrCode) : 1 ≤ (errCode e).toNat ∧ (errCode e).toNat ≤ 6 := by
  cases e <;> decide

/-- Recording an error keeps the sticky bits legal. -/
theorem recordError_legal (e : ErrCode) (t : Sticky) (h : stickyLegal t = true) :
    stickyLegal (recordError e t) = true := by
  have hc := errCode_range e
  cases he : t.err <;> simp_all [stickyLegal, recordError]

/-! ### Operands -/

@[simp] theorem withF32_finite {N : Arith} {w : Word} {n : Nat} {s : State} {run : F64 → Result}
    (h : f32Finite w = true) : withF32 N w n s run = run (N.ofF32 w) := by simp [withF32, h]

@[simp] theorem withF32_nonfinite {N : Arith} {w : Word} {n : Nat} {s : State} {run : F64 → Result}
    (h : f32Finite w = false) : withF32 N w n s run = .next (dropCommand .nonfinite n s) := by
  simp [withF32, h]

@[simp] theorem withU32_some {α : Type} (v : α) (n : Nat) (s : State) (run : α → Result) :
    withU32 (some v) n s run = run v := rfl

@[simp] theorem withU32_none {α : Type} (n : Nat) (s : State) (run : α → Result) :
    withU32 none n s run = .next (dropCommand .operand n s) := rfl

@[simp] theorem withRate_some (sr : F64) (n : Nat) (s : State) (run : F64 → Result) :
    withRate (some sr) n s run = run sr := rfl

@[simp] theorem withRate_none (n : Nat) (s : State) (run : F64 → Result) :
    withRate none n s run = .next (dropCommand .noSr n s) := rfl

/-- What an `F32` operand can do: run the rest with its value, or drop the command. -/
theorem withF32_cases {N : Arith} {w : Word} {n : Nat} {s t : State} {run : F64 → Result}
    (h : withF32 N w n s run = .next t) :
    (f32Finite w = true ∧ run (N.ofF32 w) = .next t) ∨
      (f32Finite w = false ∧ t = dropCommand .nonfinite n s) := by
  cases hw : f32Finite w
  · rw [withF32_nonfinite hw] at h; exact .inr ⟨rfl, (by simpa using h.symm)⟩
  · rw [withF32_finite hw] at h; exact .inl ⟨rfl, h⟩

/-- What a `U32` operand with a closed set can do. -/
theorem withU32_cases {α : Type} {m : Option α} {n : Nat} {s t : State} {run : α → Result}
    (h : withU32 m n s run = .next t) :
    (∃ v, m = some v ∧ run v = .next t) ∨ (m = none ∧ t = dropCommand .operand n s) := by
  cases m with
  | none => exact .inr ⟨rfl, (by simpa using h.symm)⟩
  | some v => exact .inl ⟨v, rfl, h⟩

/-- What the need of a sample rate can do. -/
theorem withRate_cases {r : Option F64} {n : Nat} {s t : State} {run : F64 → Result}
    (h : withRate r n s run = .next t) :
    (∃ sr, r = some sr ∧ run sr = .next t) ∨ (r = none ∧ t = dropCommand .noSr n s) := by
  cases r with
  | none => exact .inr ⟨rfl, (by simpa using h.symm)⟩
  | some sr => exact .inl ⟨sr, rfl, h⟩

theorem zeroOrOne_cases (w : Word) :
    (w = 0#32 ∧ zeroOrOne w = some false) ∨ (w = 1#32 ∧ zeroOrOne w = some true) ∨
      (1 < w.toNat ∧ zeroOrOne w = none) := by
  by_cases h0 : w = 0#32
  · subst h0; exact .inl ⟨rfl, rfl⟩
  by_cases h1 : w = 1#32
  · subst h1; exact .inr (.inl ⟨rfl, rfl⟩)
  · have n0 : w.toNat ≠ 0 := fun h => h0 (BitVec.eq_of_toNat_eq (by simpa using h))
    have n1 : w.toNat ≠ 1 := fun h => h1 (BitVec.eq_of_toNat_eq (by simpa using h))
    refine .inr (.inr ⟨by omega, ?_⟩)
    unfold zeroOrOne
    split <;> simp_all

/-! ### Taking a command off the port -/

/-- Fewer operand words offered than the header announces: they are all kept. -/
theorem collectOperands_short {h : Word} {ops port : List Word} {s : State}
    (hn : port.length < nwField h - ops.length) :
    collectOperands h ops port s =
      (none, { s with framing := .collecting h (ops ++ port), cmdPort := [] }) := by
  simp [collectOperands, hn]

/-- Enough operand words offered: the command is whole. -/
theorem collectOperands_whole {h : Word} {ops port : List Word} {s : State}
    (hn : nwField h - ops.length ≤ port.length) :
    collectOperands h ops port s =
      (some (h, ops ++ port.take (nwField h - ops.length)),
        { s with framing := .waiting, cmdPort := port.drop (nwField h - ops.length) }) := by
  simp [collectOperands, Nat.not_lt.mpr hn]

/-- Nothing offered: nothing is taken. -/
theorem acceptCommand_idle {s : State} (hf : s.framing = .waiting) (hp : s.cmdPort = []) :
    acceptCommand s = (none, s) := by simp [acceptCommand, hf, hp]

/-- A whole command at the front of the port is taken, and only it. -/
theorem acceptCommand_whole {s : State} {h : Word} {ops rest : List Word}
    (hf : s.framing = .waiting) (hp : s.cmdPort = h :: (ops ++ rest))
    (hn : ops.length = nwField h) :
    acceptCommand s = (some (h, ops), { s with framing := .waiting, cmdPort := rest }) := by
  have hle : nwField h - ([] : List Word).length ≤ (ops ++ rest).length := by
    simp [← hn]
  simp [acceptCommand, hf, hp, collectOperands_whole hle, ← hn]

/-- Taking words off the port touches the framing position and the port, and nothing else. -/
theorem acceptCommand_frame (s : State) :
    (acceptCommand s).2 =
      { s with framing := (acceptCommand s).2.framing, cmdPort := (acceptCommand s).2.cmdPort } := by
  unfold acceptCommand
  split
  · split
    · rfl
    · unfold collectOperands; dsimp only; split <;> rfl
  · unfold collectOperands; dsimp only; split <;> rfl

/-- What one step can do: hold the block in reset, wait for more words, execute a command or reject its
header. -/
theorem stepBy_cases (P : Params) (run : Instr → State → Result) (s : State) :
    (s.resetIn = true ∧ stepBy P run s = .next (applyResetInput P s)) ∨
    (s.resetIn = false ∧
      (((acceptCommand s).1 = none ∧ stepBy P run s = .next (acceptCommand s).2) ∨
      (∃ h ops, (acceptCommand s).1 = some (h, ops) ∧
        ((∃ i, decodeCommand h ops = .ok i ∧ stepBy P run s = run i (acceptCommand s).2) ∨
        (∃ r, decodeCommand h ops = .error r ∧
          stepBy P run s = .next (rejectHeader r (acceptCommand s).2)))))) := by
  cases hr : s.resetIn
  · refine .inr ⟨rfl, ?_⟩
    rcases ha : acceptCommand s with ⟨_ | ⟨h, ops⟩, s'⟩
    · exact .inl ⟨rfl, by simp [stepBy, hr, ha]⟩
    · refine .inr ⟨h, ops, rfl, ?_⟩
      cases hd : decodeCommand h ops with
      | ok i => exact .inl ⟨i, rfl, by simp [stepBy, hr, ha, hd]⟩
      | error r => exact .inr ⟨r, rfl, by simp [stepBy, hr, ha, hd]⟩
  · exact .inl ⟨rfl, by simp [stepBy, hr]⟩

/-! ### Bytes -/

/-- At most three bytes are left over (rule R63). -/
theorem restOfBytes_length (bs : List Byte) : (restOfBytes bs).length < 4 := by
  induction bs using restOfBytes.induct with
  | case1 _ _ _ _ rest ih => simpa [restOfBytes] using ih
  | case2 bs h =>
    match bs with
    | [] | [_] | [_, _] | [_, _, _] => simp [restOfBytes]
    | a :: b :: c :: d :: rest => exact absurd rfl (h a b c d rest)

/-! ### Rejecting, completing, reading -/

/-- A rejected header changes the sticky bits and nothing else. -/
theorem rejectHeader_frame (r : Reject) (s : State) :
    rejectHeader r s = { s with sticky := (rejectHeader r s).sticky } := by
  cases r <;> rfl

/-- The machine's operand check is the syntax's. -/
theorem f32Finite_eq (w : Word) : f32Finite w = finiteOperand w := rfl

/-- `complete` in the terms of the statements: the words appended, the overflow of the computed values
recorded. -/
theorem complete_stickyAfter (regs out : List F64) (s : State) :
    complete binary64 (anyNonfinite binary64 regs) out s =
      { s with
        resp := s.resp ++ out.map F64.r32
        sticky := stickyAfter regs out s.sticky } := complete_eq _ _ _ _

/-- A register can be read at exactly the assigned indices. -/
theorem readRegister_isSome (s : State) (w : Word) :
    (readRegister s w.toNat).isSome = assignedIndex w := by
  have h : ∀ n : Nat, (readRegister s n).isSome =
      (decide (n ≤ 11) || (decide (16 ≤ n) && decide (n ≤ 25)) || (decide (32 ≤ n) && decide (n ≤ 35))
        || (decide (48 ≤ n) && decide (n ≤ 62))) := by
    intro n
    by_cases hn : n < 63
    · interval_cases n <;> rfl
    · have : readRegister s n = none := by
        unfold readRegister
        split <;> first | omega | rfl
      rw [this]
      simp
      omega
  simpa [assignedIndex] using h w.toNat

end Sys2Proof.Machine
end

