-- ==== Sys2Proof/Laws/PerInstr.lean ====
section
/-! SUPPORT. Facts about every command as syntax, one lemma per constructor. -/

namespace Sys2Proof.Laws

/-- Family HeaderFields: the header a command is encoded with has `RSV = 0` and an `NW` that is the
number of its operand words (rules R81 and R85). -/
def HeaderFields.Statement (i : Instr) : Prop :=
  rsvField (headerOf i) = 0 ∧ nwField (headerOf i) = (operandsOf i).length

theorem HeaderFields.nop : HeaderFields.Statement .nop :=
  ⟨by simp [rsvField, headerOf], by simp [nwField, headerOf, operandsOf]⟩

theorem HeaderFields.reset : HeaderFields.Statement .reset :=
  ⟨by simp [rsvField, headerOf], by simp [nwField, headerOf, operandsOf]⟩

theorem HeaderFields.tick (fm : Word) : HeaderFields.Statement (.tick fm) :=
  ⟨by simp [rsvField, headerOf], by simp [nwField, headerOf, operandsOf]⟩

theorem HeaderFields.peek (index : Word) : HeaderFields.Statement (.peek index) :=
  ⟨by simp [rsvField, headerOf], by simp [nwField, headerOf, operandsOf]⟩

theorem HeaderFields.oscSr (hz : Word) : HeaderFields.Statement (.oscSr hz) :=
  ⟨by simp [rsvField, headerOf], by simp [nwField, headerOf, operandsOf]⟩

theorem HeaderFields.oscFreq (hz : Word) : HeaderFields.Statement (.oscFreq hz) :=
  ⟨by simp [rsvField, headerOf], by simp [nwField, headerOf, operandsOf]⟩

theorem HeaderFields.oscGlide (hz ms : Word) : HeaderFields.Statement (.oscGlide hz ms) :=
  ⟨by simp [rsvField, headerOf], by simp [nwField, headerOf, operandsOf]⟩

theorem HeaderFields.oscWave (w : Word) : HeaderFields.Statement (.oscWave w) :=
  ⟨by simp [rsvField, headerOf], by simp [nwField, headerOf, operandsOf]⟩

theorem HeaderFields.oscBlend (b : Word) : HeaderFields.Statement (.oscBlend b) :=
  ⟨by simp [rsvField, headerOf], by simp [nwField, headerOf, operandsOf]⟩

theorem HeaderFields.oscSubblend (sb : Word) : HeaderFields.Statement (.oscSubblend sb) :=
  ⟨by simp [rsvField, headerOf], by simp [nwField, headerOf, operandsOf]⟩

theorem HeaderFields.oscJc303 (m : Word) : HeaderFields.Statement (.oscJc303 m) :=
  ⟨by simp [rsvField, headerOf], by simp [nwField, headerOf, operandsOf]⟩

theorem HeaderFields.oscPhrst : HeaderFields.Statement .oscPhrst :=
  ⟨by simp [rsvField, headerOf], by simp [nwField, headerOf, operandsOf]⟩

theorem HeaderFields.oscProc : HeaderFields.Statement .oscProc :=
  ⟨by simp [rsvField, headerOf], by simp [nwField, headerOf, operandsOf]⟩

theorem HeaderFields.aenvSr (hz : Word) : HeaderFields.Statement (.aenvSr hz) :=
  ⟨by simp [rsvField, headerOf], by simp [nwField, headerOf, operandsOf]⟩

theorem HeaderFields.aenvAtk (ms : Word) : HeaderFields.Statement (.aenvAtk ms) :=
  ⟨by simp [rsvField, headerOf], by simp [nwField, headerOf, operandsOf]⟩

theorem HeaderFields.aenvDec (ms : Word) : HeaderFields.Statement (.aenvDec ms) :=
  ⟨by simp [rsvField, headerOf], by simp [nwField, headerOf, operandsOf]⟩

theorem HeaderFields.aenvRel (ms : Word) : HeaderFields.Statement (.aenvRel ms) :=
  ⟨by simp [rsvField, headerOf], by simp [nwField, headerOf, operandsOf]⟩

theorem HeaderFields.aenvOn : HeaderFields.Statement .aenvOn :=
  ⟨by simp [rsvField, headerOf], by simp [nwField, headerOf, operandsOf]⟩

theorem HeaderFields.aenvOff : HeaderFields.Statement .aenvOff :=
  ⟨by simp [rsvField, headerOf], by simp [nwField, headerOf, operandsOf]⟩

theorem HeaderFields.aenvProc : HeaderFields.Statement .aenvProc :=
  ⟨by simp [rsvField, headerOf], by simp [nwField, headerOf, operandsOf]⟩

theorem HeaderFields.aenvActive : HeaderFields.Statement .aenvActive :=
  ⟨by simp [rsvField, headerOf], by simp [nwField, headerOf, operandsOf]⟩

theorem HeaderFields.menvSr (hz : Word) : HeaderFields.Statement (.menvSr hz) :=
  ⟨by simp [rsvField, headerOf], by simp [nwField, headerOf, operandsOf]⟩

theorem HeaderFields.menvDec (ms : Word) : HeaderFields.Statement (.menvDec ms) :=
  ⟨by simp [rsvField, headerOf], by simp [nwField, headerOf, operandsOf]⟩

theorem HeaderFields.menvTrig : HeaderFields.Statement .menvTrig :=
  ⟨by simp [rsvField, headerOf], by simp [nwField, headerOf, operandsOf]⟩

theorem HeaderFields.menvProc : HeaderFields.Statement .menvProc :=
  ⟨by simp [rsvField, headerOf], by simp [nwField, headerOf, operandsOf]⟩

theorem HeaderFields.filtSr (hz : Word) : HeaderFields.Statement (.filtSr hz) :=
  ⟨by simp [rsvField, headerOf], by simp [nwField, headerOf, operandsOf]⟩

theorem HeaderFields.filtCut (hz : Word) : HeaderFields.Statement (.filtCut hz) :=
  ⟨by simp [rsvField, headerOf], by simp [nwField, headerOf, operandsOf]⟩

theorem HeaderFields.filtRes (r : Word) : HeaderFields.Statement (.filtRes r) :=
  ⟨by simp [rsvField, headerOf], by simp [nwField, headerOf, operandsOf]⟩

theorem HeaderFields.filtEnvmod (depth : Word) : HeaderFields.Statement (.filtEnvmod depth) :=
  ⟨by simp [rsvField, headerOf], by simp [nwField, headerOf, operandsOf]⟩

theorem HeaderFields.filtFmamt (depth : Word) : HeaderFields.Statement (.filtFmamt depth) :=
  ⟨by simp [rsvField, headerOf], by simp [nwField, headerOf, operandsOf]⟩

theorem HeaderFields.filtProc (input env acc fm : Word) : HeaderFields.Statement (.filtProc input env acc fm) :=
  ⟨by simp [rsvField, headerOf], by simp [nwField, headerOf, operandsOf]⟩

end Sys2Proof.Laws
end

