-- ==== Sys2Proof/Tests/Slice0.lean ====
section
/-! SUPPORT. The model's own tests: the smoke test of WellFormed, the decoding of every row of rule R85
from a word written out by hand, at most two small tests per command with the values of
spec/95_test_vectors.md or of the rule's own example, and a witness for the hypotheses of every
statement that has some. -/

namespace Sys2Proof.Machine.Tests

set_option Elab.async false

/-! ### Helpers -/

/-- The outcome is a next state with the property. -/
def after (r : Result) (p : State → Bool) : Bool :=
  match r with
  | .next s => p s
  | _ => false

/-- The response words of the outcome. -/
def emits (r : Result) (ws : List Word) : Bool := after r fun s => s.resp == ws

/-- 44100, as a register value. -/
def r44 : F64 := ⟨0x40E5888000000000#64⟩

/-- One half, as a register value. -/
def half : F64 := ⟨0x3FE0000000000000#64⟩

/-- Reset with all four rates at 44100 and nothing else changed. -/
def rated : State :=
  let s := State.reset
  { s with
    osc := { s.osc with sampleRate := some r44 }, aenv := { s.aenv with sampleRate := some r44 },
    menv := { s.menv with sampleRate := some r44 }, filt := { s.filt with sampleRate := some r44 } }

/-- Words offered on the command port of the reset state. -/
def offered (ws : List Word) : State := State.reset.offer ws

/-! ### WellFormed: an ill-formed term for each check -/

theorem test_wellFormed_tick : (Instr.tick 0x7F800000#32).wellFormed = false := by decide
theorem test_wellFormed_peek_hole : (Instr.peek 12#32).wellFormed = false := by decide
theorem test_wellFormed_peek_gaps : [15, 26, 31, 36, 47, 63].all (fun n =>
    (Instr.peek (BitVec.ofNat 32 n)).wellFormed == false) = true := by decide
theorem test_wellFormed_peek_edges : [0, 11, 16, 25, 32, 35, 48, 62].all (fun n =>
    (Instr.peek (BitVec.ofNat 32 n)).wellFormed) = true := by decide
theorem test_wellFormed_oscSr : (Instr.oscSr 0xFF800000#32).wellFormed = false := by decide
theorem test_wellFormed_oscFreq : (Instr.oscFreq 0x7F800001#32).wellFormed = false := by decide
theorem test_wellFormed_oscGlide_hz : (Instr.oscGlide 0x7FC00000#32 0#32).wellFormed = false := by decide
theorem test_wellFormed_oscGlide_ms : (Instr.oscGlide 0#32 0x7FC00000#32).wellFormed = false := by decide
theorem test_wellFormed_oscWave : (Instr.oscWave 2#32).wellFormed = false := by decide
theorem test_wellFormed_oscBlend : (Instr.oscBlend 0x7FC00000#32).wellFormed = false := by decide
theorem test_wellFormed_oscSubblend : (Instr.oscSubblend 0x7F800000#32).wellFormed = false := by decide
theorem test_wellFormed_oscJc303 : (Instr.oscJc303 0x00010001#32).wellFormed = false := by decide
theorem test_wellFormed_aenvSr : (Instr.aenvSr 0x7F800000#32).wellFormed = false := by decide
theorem test_wellFormed_aenvAtk : (Instr.aenvAtk 0x7F800000#32).wellFormed = false := by decide
theorem test_wellFormed_aenvDec : (Instr.aenvDec 0x7F800000#32).wellFormed = false := by decide
theorem test_wellFormed_aenvRel : (Instr.aenvRel 0x7F800000#32).wellFormed = false := by decide
theorem test_wellFormed_menvSr : (Instr.menvSr 0x7F800000#32).wellFormed = false := by decide
theorem test_wellFormed_menvDec : (Instr.menvDec 0x7F800000#32).wellFormed = false := by decide
theorem test_wellFormed_filtSr : (Instr.filtSr 0x7F800000#32).wellFormed = false := by decide
theorem test_wellFormed_filtCut : (Instr.filtCut 0x7F800000#32).wellFormed = false := by decide
theorem test_wellFormed_filtRes : (Instr.filtRes 0x7F800000#32).wellFormed = false := by decide
theorem test_wellFormed_filtEnvmod : (Instr.filtEnvmod 0x7F800000#32).wellFormed = false := by decide
theorem test_wellFormed_filtFmamt : (Instr.filtFmamt 0x7F800000#32).wellFormed = false := by decide
theorem test_wellFormed_filtProc : ([(Instr.filtProc 0x7F800000#32 0 0 0),
    (.filtProc 0 0x7F800000#32 0 0), (.filtProc 0 0 0x7F800000#32 0),
    (.filtProc 0 0 0 0x7F800000#32)].all fun i => i.wellFormed == false) = true := by decide
/-- Rule R84: the largest finite value, a subnormal and a negative zero are finite. -/
theorem test_wellFormed_finite : [0x7F7FFFFF#32, 0x00000001#32, 0x80000000#32].all finiteOperand = true := by
  decide

/-! ### Decoding: each row of rule R85 from its words, the first word in the low bits -/

theorem test_decode_nop : decodeTableWord 32 0x00000000 = some .nop := by decide
theorem test_decode_reset : decodeTableWord 32 0x00000001 = some .reset := by decide
theorem test_decode_tick : decodeTableWord 64 0x3F80000000000102 = some (.tick 0x3F800000#32) := by decide
theorem test_decode_peek : decodeTableWord 64 0x0000003E00000103 = some (.peek 62#32) := by decide
theorem test_decode_oscSr : decodeTableWord 64 0x472C440000000110 = some (.oscSr 0x472C4400#32) := by decide
theorem test_decode_oscFreq : decodeTableWord 64 0x43DC000000000111 = some (.oscFreq 0x43DC0000#32) := by
  decide
theorem test_decode_oscGlide : decodeTableWord 96 0x42C80000445C000000000212 =
    some (.oscGlide 0x445C0000#32 0x42C80000#32) := by decide
theorem test_decode_oscWave : decodeTableWord 64 0x0000000100000113 = some (.oscWave 1#32) := by decide
theorem test_decode_oscBlend : decodeTableWord 64 0x3FC0000000000114 = some (.oscBlend 0x3FC00000#32) := by
  decide
theorem test_decode_oscSubblend : decodeTableWord 64 0x3F80000000000115 =
    some (.oscSubblend 0x3F800000#32) := by decide
theorem test_decode_oscJc303 : decodeTableWord 64 0x0000000100000116 = some (.oscJc303 1#32) := by decide
theorem test_decode_oscPhrst : decodeTableWord 32 0x00000017 = some .oscPhrst := by decide
theorem test_decode_oscProc : decodeTableWord 32 0x00000018 = some .oscProc := by decide
theorem test_decode_aenvSr : decodeTableWord 64 0x472C440000000120 = some (.aenvSr 0x472C4400#32) := by
  decide
theorem test_decode_aenvAtk : decodeTableWord 64 0x4040000000000121 = some (.aenvAtk 0x40400000#32) := by
  decide
theorem test_decode_aenvDec : decodeTableWord 64 0x4348000000000122 = some (.aenvDec 0x43480000#32) := by
  decide
theorem test_decode_aenvRel : decodeTableWord 64 0x41A0000000000123 = some (.aenvRel 0x41A00000#32) := by
  decide
theorem test_decode_aenvOn : decodeTableWord 32 0x00000024 = some .aenvOn := by decide
theorem test_decode_aenvOff : decodeTableWord 32 0x00000025 = some .aenvOff := by decide
theorem test_decode_aenvProc : decodeTableWord 32 0x00000026 = some .aenvProc := by decide
theorem test_decode_aenvActive : decodeTableWord 32 0x00000027 = some .aenvActive := by decide
theorem test_decode_menvSr : decodeTableWord 64 0x473B800000000130 = some (.menvSr 0x473B8000#32) := by
  decide
theorem test_decode_menvDec : decodeTableWord 64 0x4248000000000131 = some (.menvDec 0x42480000#32) := by
  decide
theorem test_decode_menvTrig : decodeTableWord 32 0x00000032 = some .menvTrig := by decide
theorem test_decode_menvProc : decodeTableWord 32 0x00000033 = some .menvProc := by decide
theorem test_decode_filtSr : decodeTableWord 64 0x472C440000000140 = some (.filtSr 0x472C4400#32) := by
  decide
theorem test_decode_filtCut : decodeTableWord 64 0x4448000000000141 = some (.filtCut 0x44480000#32) := by
  decide
theorem test_decode_filtRes : decodeTableWord 64 0x3F80000000000142 = some (.filtRes 0x3F800000#32) := by
  decide
theorem test_decode_filtEnvmod : decodeTableWord 64 0x44FA000000000143 =
    some (.filtEnvmod 0x44FA0000#32) := by decide
theorem test_decode_filtFmamt : decodeTableWord 64 0x3F80000000000144 =
    some (.filtFmamt 0x3F800000#32) := by decide
theorem test_decode_filtProc : decodeTableWord 160 0x0000000400000003000000023F80000000000445 =
    some (.filtProc 0x3F800000#32 2#32 3#32 4#32) := by decide
/-- Rule R87: a reserved bit, an undefined `OPC` in and above the units, a wrong `NW` both ways. -/
theorem test_decode_rejected : [(32, 0x00000800), (32, 0x00000004), (32, 0x00000050), (32, 0x00000010),
    (96, 0x00000202)].all (fun p => decodeTableWord p.1 p.2 == (none : Option Instr)) = true := by decide
/-- Rule R62: a word's bytes, least significant first; rule R63: three bytes are no word. -/
theorem test_bytes : wordsOfBytes [0x10, 0x01, 0x00, 0x00, 0x00, 0x44, 0x2C] = [0x00000110#32] := by decide
/-- Rule R63 with assumption log entry 19: a word whose bytes come in two pieces arrives whole. -/
theorem test_offerBytes :
    let first := State.reset.offerBytes [0x10#8, 0x01#8, 0x00#8]
    first.1.cmdPort = [] ∧ (first.1.offerBytes (first.2 ++ [0x00#8])).1.cmdPort = [0x00000110#32] := by
  decide
theorem test_bytesOfWords : bytesOfWords [0x472C4400#32] = [0x00#8, 0x44#8, 0x2C#8, 0x47#8] := by decide

/-! ### The assembler's example (rule R91) -/

theorem test_assemble : assembleWords "OSC_GLIDE 880.0, 100.0 ; rule R91" =
    some [0x00000212#32, 0x445C0000#32, 0x42C80000#32] := by decide +kernel
/-- Assumption log entry 18: a tab after the mnemonic, and blanks of both kinds around the operands. -/
theorem test_assemble_tab : assembleWords "\tOSC_GLIDE\t 880.0\t,\t100.0 " =
    some [0x00000212#32, 0x445C0000#32, 0x42C80000#32] := by decide +kernel
/-- Assumption log entry 18: a point with digits on one side only, a point with none; a count of 0. -/
theorem test_assemble_point : assembleWords "OSC_GLIDE .5, 5." =
      some [0x00000212#32, 0x3F000000#32, 0x40A00000#32] ∧ assembleWords "OSC_SR ." = none ∧
    assembleWords "TICKS 0, 0" = some [] := by decide +kernel
theorem test_assemble_negative : assembleWords "OSC_SUBBLEND -0.2" =
    some [0x00000115#32, 0xBE4CCCCD#32] := by decide +kernel

/-! ### Framing and errors (vectors ENC of 95_test_vectors.md) -/

/-- ENC-1 and ENC-5: a reserved bit is checked first. -/
theorem test_enc_reserved : after (step (offered [0x00000804#32]))
    (fun s => statusWord s == 0x00000021#32 && s.resp == []) = true := by decide +kernel
/-- ENC-3: TICK with `NW = 2` consumes its two words. -/
theorem test_enc_wrong_nw : after (step (offered [0x00000202#32, 1#32, 2#32, 0x00000103#32, 0#32]))
    (fun s => statusWord s == 0x00000011#32 && s.cmdPort == [0x00000103#32, 0#32]) = true := by
  decide +kernel
/-- ENC-4: `NW = 7` consumes seven words. -/
theorem test_enc_nw7 : after (step (offered (0x00000700#32 :: List.replicate 8 0#32)))
    (fun s => statusWord s == 0x00000011#32 && s.cmdPort == [0#32]) = true := by decide +kernel
/-- Rules R64 and R82: with one of two operand words nothing is acted on. -/
theorem test_framing_waits : after (step (offered [0x00000212#32, 0x445C0000#32]))
    (fun s => s.framing == .collecting 0x00000212#32 [0x445C0000#32] && s.cmdPort == []
      && s.osc == State.reset.osc && s.sticky == State.reset.sticky) = true := by decide +kernel
/-- ENC-11: a second error sets MULTI and CAUSE keeps the first code. -/
theorem test_enc_multi : after (runSteps 2 (offered [0x00000018#32, 0x00000004#32]))
    (fun s => statusWord s == 0x00000043#32 && s.resp == [0x7FC00000#32]) = true := by decide +kernel
/-- Rule R290 and entry I25: a word offered while the reset input is asserted is refused, and no error
is recorded; a word standing on the port goes the same way. -/
theorem test_reset_input : after (step ((offered [0x00000018#32]).assertReset.offer [0x00000018#32]))
    (fun s => s.cmdPort == [] && statusWord s == 0#32 && s.resp == [] && s.resetIn) = true := by
  decide +kernel

/-! ### One step of each command -/

theorem test_nop : after (step (State.reset.withFetchWord 32 0)) (fun s => s == State.reset) = true := by
  decide +kernel
/-- ENC-15 and rule R242: the record and the rates are cleared, the response port is kept. -/
theorem test_reset : after (exec .reset { dropCommand .noSr 1 rated with framing := .waiting })
    (fun s => statusWord s == 0#32 && s.resp == [0x7FC00000#32]) = true := by decide +kernel
/-- BLK-1. -/
theorem test_tick : after (exec (.tick 0#32) rated)
    (fun s => s.resp == [0#32, 0#32] && statusWord s == 0x00000F00#32) = true := by decide +kernel
/-- ENC-18: one unset rate is enough. -/
theorem test_tick_noSr : after
    (exec (.tick 0#32) { rated with filt := State.reset.filt })
    (fun s => s.resp == [0x7FC00000#32, 0x7FC00000#32] && statusWord s == 0x00000741#32) = true := by
  decide +kernel
/-- BLK-5. -/
theorem test_peek : emits (exec (.peek 3#32) State.reset) [0x43DC0000#32] = true := by decide +kernel
/-- ENC-13. -/
theorem test_peek_hole : after (exec (.peek 63#32) State.reset)
    (fun s => s.resp == [0x7FC00000#32] && statusWord s == 0x00000051#32) = true := by decide +kernel
/-- Rule R116's example. -/
theorem test_oscSr : after (exec (.oscSr 0x472C4400#32) State.reset)
    (fun s => s.osc.sampleRate == some r44 && statusWord s == 0x00000100#32) = true := by decide +kernel
/-- OSC-21. -/
theorem test_oscSr_floor : after (exec (.oscSr 0xC0A00000#32) State.reset)
    (fun s => s.osc.sampleRate == some F64.one) = true := by decide +kernel
/-- OSC-16: a negative frequency stores 0.01. -/
theorem test_oscFreq : after (exec (.oscFreq 0xC0A00000#32) rated)
    (fun s => F64.r32 s.osc.frequency == 0x3C23D70A#32
      && s.osc.targetFrequency == s.osc.frequency) = true := by decide +kernel
/-- OSC-8. -/
theorem test_oscGlide : after (exec (.oscGlide 0x445C0000#32 0x42C80000#32) rated)
    (fun s => s.osc.glideSteps == 0x113A && F64.r32 s.osc.glideMult == 0x3F800527#32
      && F64.r32 s.osc.frequency == 0x43DC0000#32) = true := by decide +kernel
/-- OSC-14: a negative time is one step. -/
theorem test_oscGlide_one : after (exec (.oscGlide 0x445C0000#32 0xC0A00000#32) rated)
    (fun s => s.osc.glideSteps == 1 && F64.r32 s.osc.glideMult == 0x40000000#32) = true := by
  decide +kernel
theorem test_oscWave : after (exec (.oscWave 1#32) State.reset)
    (fun s => s.osc.blend == F64.zero) = true := by decide +kernel
/-- ENC-10. -/
theorem test_oscWave_two : after (exec (.oscWave 2#32) State.reset)
    (fun s => s.osc.blend == F64.one && statusWord s == 0x00000051#32) = true := by decide +kernel
/-- OSC-18. -/
theorem test_oscBlend : after (exec (.oscBlend 0x3FC00000#32) State.reset)
    (fun s => s.osc.blend == F64.one) = true := by decide +kernel
/-- OSC-19. -/
theorem test_oscSubblend : after (exec (.oscSubblend 0xBE4CCCCD#32) rated)
    (fun s => s.osc.subBlend == F64.zero) = true := by decide +kernel
/-- OSC-7. -/
theorem test_oscJc303 : after (exec (.oscJc303 1#32) State.reset)
    (fun s => statusWord s == 0x00010000#32) = true := by decide +kernel
theorem test_oscPhrst : after
    (exec .oscPhrst { rated with osc := { rated.osc with phase := half, subPhase := half } })
    (fun s => s.osc == rated.osc) = true := by decide +kernel
/-- OSC-1, the first sample: 0, and the phases advance by `440 / 44100` and half of it. -/
theorem test_oscProc : after (exec .oscProc rated)
    (fun s => s.resp == [0#32] && s.osc.phase == ⟨0x3F846EFDCB4A6B82#64⟩) = true := by decide +kernel
/-- OSC-1, the second sample. -/
theorem test_oscProc_second : emits
    (exec .oscProc { rated with osc := { rated.osc with phase := ⟨0x3F846EFDCB4A6B82#64⟩ } })
    [0xBF316160#32] = true := by decide +kernel
/-- AENV-1. -/
theorem test_aenvSr : after (exec (.aenvSr 0x472C4400#32) State.reset)
    (fun s => F64.r32 s.aenv.attackInc == 0x3BF7ADF5#32 && F64.r32 s.aenv.decayCoef == 0x3F7FF892#32
      && F64.r32 s.aenv.releaseCoef == 0x3F7FB5BD#32) = true := by decide +kernel
/-- ENC-24: before the rate, the time is stored and the coefficient stays 0. -/
theorem test_aenvAtk_unset : after (exec (.aenvAtk 0x40A00000#32) State.reset)
    (fun s => F64.r32 s.aenv.attackMs == 0x40A00000#32 && s.aenv.attackInc == F64.zero) = true := by
  decide +kernel
/-- AENV-8. -/
theorem test_aenvAtk : after (exec (.aenvAtk 0xC0800000#32) rated)
    (fun s => s.aenv.attackInc == F64.one) = true := by decide +kernel
/-- AENV-10: 0 ms is floored in the coefficient only. -/
theorem test_aenvDec : after (exec (.aenvDec 0#32) rated)
    (fun s => s.aenv.decayMs == F64.zero && F64.r32 s.aenv.decayCoef == 0x2F1C0BC1#32) = true := by
  decide +kernel
/-- Rule R154's example. -/
theorem test_aenvRel : after (exec (.aenvRel 0x41A00000#32) rated)
    (fun s => F64.r32 s.aenv.releaseCoef == 0x3F7FB5BD#32) = true := by decide +kernel
/-- AENV-2 and AENV-7, the status words. -/
theorem test_aenvOn : after (exec .aenvOn { rated with aenv := { rated.aenv with level := half } })
    (fun s => statusWord s == 0x00005F00#32 && s.aenv.level == F64.zero) = true := by decide +kernel
theorem test_aenvOff : after (exec .aenvOff { rated with aenv := { rated.aenv with level := half } })
    (fun s => statusWord s == 0x00003F00#32 && s.aenv.level == half) = true := by decide +kernel
/-- Rule R157: the sample that reaches 1 moves to Decay. -/
theorem test_aenvProc_attack : after
    (exec .aenvProc
      { rated with aenv := { rated.aenv with stage := .attack, level := half, attackInc := half } })
    (fun s => s.aenv.stage == .decay && s.resp == [0x3F800000#32]) = true := by decide +kernel
/-- AENV-7: Release at level 0 goes Idle. -/
theorem test_aenvProc_release : after
    (exec .aenvProc { rated with aenv := { rated.aenv with stage := .release, releaseCoef := half } })
    (fun s => s.aenv.stage == .idle && s.resp == [0#32]) = true := by decide +kernel
/-- AENV-9. -/
theorem test_aenvActive : emits
    (exec .aenvActive { State.reset with aenv := { State.reset.aenv with gate := true } }) [1#32] = true := by
  decide +kernel
/-- Rule R181's example. -/
theorem test_menvSr : after (exec (.menvSr 0x472C4400#32) State.reset)
    (fun s => F64.r32 s.menv.decayCoef == 0x3F7FF892#32 && statusWord s == 0x00000400#32) = true := by
  decide +kernel
/-- MENV-6. -/
theorem test_menvDec : after (exec (.menvDec 0xC0400000#32) rated)
    (fun s => F64.r32 s.menv.decayMs == 0xC0400000#32 && F64.r32 s.menv.decayCoef == 0x2F1C0BC1#32)
      = true := by decide +kernel
theorem test_menvTrig : after (exec .menvTrig State.reset) (fun s => s.menv.level == F64.one) = true := by
  decide +kernel
/-- Rule R184: the multiplication comes before the value is emitted. -/
theorem test_menvProc : after
    (exec .menvProc { rated with menv := { rated.menv with level := F64.one, decayCoef := half } })
    (fun s => s.menv.level == half && s.resp == [0x3F000000#32]) = true := by decide +kernel
/-- MENV-7: before the rate the command is dropped and the level stays. -/
theorem test_menvProc_noSr : after
    (exec .menvProc { State.reset with menv := { State.reset.menv with level := F64.one } })
    (fun s => s.menv.level == F64.one && s.resp == [0x7FC00000#32] && statusWord s == 0x00000041#32)
      = true := by decide +kernel
/-- FILT-1. -/
theorem test_filtSr : after (exec (.filtSr 0x472C4400#32) State.reset)
    (fun s => F64.r32 s.filt.fc == 0x44480000#32 && F64.r32 s.filt.coefs.b0 == 0x3D8D2115#32
      && s.filt.coefs.k == F64.zero && s.filt.coefs.g == F64.one) = true := by decide +kernel
/-- FILT-9: `0.45 * 10 = 4.5 < 5`. -/
theorem test_filtCut : after
    (exec (.filtCut 0x42C80000#32)
      { rated with filt := { rated.filt with sampleRate := some ⟨0x4024000000000000#64⟩ } })
    (fun s => F64.r32 s.filt.fc == 0x40900000#32) = true := by decide +kernel
/-- FILT-2. -/
theorem test_filtRes : after (exec (.filtRes 0x3F800000#32) rated)
    (fun s => F64.r32 s.filt.coefs.k == 0x419EBCDB#32 && F64.r32 s.filt.coefs.g == 0x40156673#32)
      = true := by decide +kernel
/-- FILT-14. -/
theorem test_filtRes_negative : after (exec (.filtRes 0xC0000000#32) State.reset)
    (fun s => s.filt.resonance == F64.zero) = true := by decide +kernel
theorem test_filtEnvmod : after (exec (.filtEnvmod 0x44FA0000#32) State.reset)
    (fun s => F64.r32 s.filt.envMod == 0x44FA0000#32) = true := by decide +kernel
theorem test_filtFmamt : after (exec (.filtFmamt 0x3F800000#32) State.reset)
    (fun s => s.filt.fmAmount == F64.one) = true := by decide +kernel
/-- FILT-3, the first sample. -/
theorem test_filtProc : emits (exec (.filtProc 0x3F800000#32 0#32 0#32 0#32) rated)
    [0x38BD29ED#32] = true := by decide +kernel
/-- FILT-11: FM is added after the step-1 clamp, `1000 + 4000 + 500`. -/
theorem test_filtProc_fm : after
    (exec (.filtProc 0#32 0x3F800000#32 0#32 0x3F800000#32)
      { rated with
        filt := { rated.filt with
          cutoff := F64.ofF32 0x447A0000#32, envMod := F64.ofF32 0x457A0000#32, fmAmount := F64.one } })
    (fun s => F64.r32 s.filt.fc == 0x45ABE000#32 && s.resp == [0#32]) = true := by decide +kernel

/-! ### Witnesses: a state and operands that meet the hypotheses of each statement

A statement without hypotheses has none here.  Where a statement has several clauses, each has its own. -/

/-- DecodedCommandIsItsEncoding. -/
theorem witness_DecodedCommandIsItsEncoding :
    decodeCommand 0x00000103#32 [3#32] = .ok (.peek 3#32) := rfl

/-- WordsSurviveByteTransport, with no byte and with three bytes behind the words. -/
theorem witness_WordsSurviveByteTransport :
    ([] : List Byte).length < 4 ∧ [1#8, 2#8, 3#8].length < 4 := by decide

/-- StepRunsDecodedCommand. -/
theorem witness_StepRunsDecodedCommand :
    let s := offered [0x00000103#32, 3#32, 0x00000018#32]
    s.resetIn = false ∧ s.framing = .waiting ∧
      decodeWords s.cmdPort = .ok (.peek 3#32, [0x00000018#32]) := ⟨rfl, rfl, rfl⟩

/-- FramingTakesExactlyOneCommand, a whole command with no operand and with seven. -/
theorem witness_FramingTakesExactlyOneCommand_whole :
    let s := offered ([0x00000018#32] ++ [0#32])
    let t := offered (0x00000700#32 :: (List.replicate 7 0#32 ++ []))
    (s.resetIn = false ∧ s.framing = .waiting ∧ s.cmdPort = 0x00000018#32 :: ([] ++ [0#32]) ∧
      ([] : List Word).length = nwField 0x00000018#32) ∧
    (t.resetIn = false ∧ t.framing = .waiting ∧
      t.cmdPort = 0x00000700#32 :: (List.replicate 7 0#32 ++ []) ∧
      (List.replicate 7 0#32).length = nwField 0x00000700#32) := by
  refine ⟨⟨rfl, rfl, rfl, ?_⟩, rfl, rfl, rfl, ?_⟩ <;> decide

/-- FramingTakesExactlyOneCommand, one word short. -/
theorem witness_FramingTakesExactlyOneCommand_short :
    let s := offered [0x00000212#32, 0x445C0000#32]
    s.resetIn = false ∧ s.framing = .waiting ∧ s.cmdPort = 0x00000212#32 :: [0x445C0000#32] ∧
      [0x445C0000#32].length < nwField 0x00000212#32 := by
  refine ⟨rfl, rfl, rfl, ?_⟩; decide

/-- FramingTakesExactlyOneCommand, a command under way. -/
theorem witness_FramingTakesExactlyOneCommand_pieces :
    let s := { State.reset with framing := .collecting 0x00000212#32 [0x445C0000#32] }
    s.resetIn = false ∧ s.framing = .collecting 0x00000212#32 [0x445C0000#32] ∧
      [0x445C0000#32].length < nwField 0x00000212#32 := by
  refine ⟨rfl, rfl, ?_⟩; decide

/-- IllegalHeaderIsConsumedAndRecorded: a reserved bit, an undefined `OPC`, a wrong `NW`. -/
theorem witness_IllegalHeaderIsConsumedAndRecorded :
    ∀ p ∈ [(0x00000800#32, ([] : List Word)), (0x00000004#32, []), (0x00000202#32, [1#32, 2#32])],
      let s := offered (p.1 :: (p.2 ++ []))
      s.resetIn = false ∧ s.framing = .waiting ∧ s.cmdPort = p.1 :: (p.2 ++ []) ∧
        p.2.length = nwField p.1 ∧ ∀ i : Instr, headerOf i ≠ p.1 := by
  intro p hp
  simp only [List.mem_cons, List.not_mem_nil, or_false] at hp
  rcases hp with h | h | h <;> subst h <;> refine ⟨rfl, rfl, rfl, by decide, ?_⟩ <;> intro i <;>
    cases i <;> simp [headerOf]

/-- ChecksRunInOrder: one command for each branch, the last two conditions failing together in the
second, so that the order shows. -/
theorem witness_ChecksRunInOrder :
    ((f32Operands (.oscGlide 0x7F800000#32 0#32)).any (fun w => !finiteOperand w) = true) ∧
    ((f32Operands (.peek 12#32)).any (fun w => !finiteOperand w) = false ∧
      (Instr.peek 12#32).wellFormed = false) ∧
    ((Instr.oscGlide 0#32 0#32).wellFormed = true ∧
      none ∈ neededRates (.oscGlide 0#32 0#32) State.reset) ∧
    ((Instr.tick 0#32).wellFormed = true ∧ none ∉ neededRates (.tick 0#32) rated) := by
  refine ⟨?_, ⟨?_, ?_⟩, ⟨?_, ?_⟩, ?_, ?_⟩ <;> decide

/-- ResponseCountNeverDependsOnAnError, a dropped command of either kind. -/
theorem witness_ResponseCountNeverDependsOnAnError :
    ((Instr.peek 12#32).wellFormed = false ∧ (Instr.peek 12#32).respCount = 1) ∧
    (none ∈ neededRates (.tick 0#32) State.reset ∧ (Instr.tick 0#32).respCount = 2) := by
  refine ⟨⟨?_, rfl⟩, ?_, rfl⟩ <;> decide

/-- AtMostOneErrorIsRecorded: a recorded error, and both values of `ERR`. -/
theorem witness_AtMostOneErrorIsRecorded :
    (exec (.oscWave 2#32) State.reset = .next (dropCommand .operand 0 State.reset) ∧
      Instr.oscWave 2#32 ≠ .reset) ∧
    State.reset.sticky.err = false ∧ (recordError .operand State.reset.sticky).err = true := by
  refine ⟨⟨rfl, by decide⟩, rfl, rfl⟩

/-- StatusWordShowsItsFields: a command after two errors. -/
theorem witness_StatusWordShowsItsFields :
    let s := { State.reset with sticky := recordError .operand (recordError .noSr State.reset.sticky) }
    exec .nop s = .next s ∧ Instr.nop ≠ .reset ∧ s.sticky.err = true ∧ s.sticky.multi = true ∧
      (State.reset.sticky.err = false → State.reset.sticky.cause = 0#4) := by
  refine ⟨rfl, by decide, rfl, rfl, fun _ => rfl⟩

/-- ResetInputHoldsTheBlock, its clauses about an asserted input. -/
theorem witness_ResetInputHoldsTheBlock : rated.assertReset.resetIn = true := rfl

/-- NothingHappensWithoutACommand. -/
theorem witness_NothingHappensWithoutACommand :
    rated.resetIn = false ∧ rated.framing = .waiting ∧ rated.cmdPort = [] := ⟨rfl, rfl, rfl⟩

/-- UnitsShareNoState: a command of one unit seen from the other three. -/
theorem witness_UnitsShareNoState :
    exec .oscPhrst State.reset = .next State.reset ∧ Instr.oscPhrst ≠ .reset ∧
      (∀ fm, Instr.oscPhrst ≠ .tick fm) ∧ unitOf .oscPhrst ≠ 2 ∧ unitOf .oscPhrst ≠ 3 ∧
      unitOf .oscPhrst ≠ 4 ∧ unitOf .menvTrig ≠ 1 := by
  refine ⟨rfl, by decide, fun _ h => (by cases h), by decide, by decide, by decide, by decide⟩

/-- ActiveReportsTheGate, its last clause. -/
theorem witness_ActiveReportsTheGate :
    exec .nop rated = .next rated ∧ Instr.nop ≠ .aenvOn ∧ Instr.nop ≠ .aenvOff ∧ Instr.nop ≠ .reset := by
  refine ⟨rfl, ?_, ?_, ?_⟩ <;> decide

/-- RegistersAreWrittenOnlyByTheirCommands: AENV_ON is none of the oscillator's writers, and NOP is no
register's. -/
theorem witness_RegistersAreWrittenOnlyByTheirCommands :
    exec .nop rated = .next rated ∧
      headerOf .aenvOn ∉ 0x00000001#32 :: [0x111#32, 0x017#32, 0x018#32, 0x102#32] ∧
      headerOf .nop ∉ 0x00000001#32 :: [0x024#32, 0x025#32, 0x026#32, 0x102#32] := by
  refine ⟨rfl, ?_, ?_⟩ <;> decide

/-- The operand hypothesis of the setters' statements (OscSrStoresTheFlooredRate,
OscFreqRestartsThePeriod, BlendsAreClamped, AenvSrRecomputesTheCoefficients,
MenvSettersRecomputeTheCoefficient, FiltSettersReconfigure, FiltDepthsAreStoredAsGiven,
PortOperandsConvertExactly): 44100, zero of either sign, the largest finite word and its negative. -/
theorem witness_finite_operands :
    [0x472C4400#32, 0x00000000#32, 0x80000000#32, 0x7F7FFFFF#32, 0xFF7FFFFF#32].all f32Finite = true := by
  decide

/-- OscSrStoresTheFlooredRate: an operand below, and one above, `SR_MIN`. -/
theorem witness_OscSrStoresTheFlooredRate :
    (f32Finite 0xC0A00000#32 = true ∧ F64.lt (F64.ofF32 0xC0A00000#32) params.srMin = true) ∧
    (f32Finite 0x472C4400#32 = true ∧ F64.lt params.srMin (F64.ofF32 0x472C4400#32) = true) := by
  decide +kernel

/-- OscGlideStartsAGlide. -/
theorem witness_OscGlideStartsAGlide :
    f32Finite 0x445C0000#32 = true ∧ f32Finite 0x42C80000#32 = true ∧
      rated.osc.sampleRate = some r44 := by
  refine ⟨?_, ?_, rfl⟩ <;> decide

/-- WaveAndModeTakeZeroOrOne: the last value of the set and the first one outside. -/
theorem witness_WaveAndModeTakeZeroOrOne :
    (0#32 : Word) = 0#32 ∧ (1#32 : Word) = 1#32 ∧ 1 < (2#32 : Word).toNat := by decide

/-- OscGlideStartsAGlide, the count: a finite value, and one that overflowed in a state no run reaches. -/
theorem witness_OscGlideStartsAGlide_count :
    let t := F64.max (F64.ofF32 0x42C80000#32) params.tMinMs
    (F64.div (F64.mul t r44) (F64.ofNat 1000)).isFinite = true ∧
      F64.div (F64.mul t ⟨0x7FE0000000000000#64⟩) (F64.ofNat 1000) = F64.inf false := by
  decide +kernel

/-- BlendsAreClamped: inside, at both ends (with either zero), above and below. -/
theorem witness_BlendsAreClamped :
    ([0x00000000#32, 0x80000000#32, 0x3E800000#32, 0x3F800000#32].all fun b => f32Finite b &&
      F64.ge (F64.ofF32 b) F64.zero && F64.ge F64.one (F64.ofF32 b)) = true ∧
    (f32Finite 0x3FC00000#32 = true ∧ F64.lt F64.one (F64.ofF32 0x3FC00000#32) = true) ∧
    (f32Finite 0xBE4CCCCD#32 = true ∧ F64.lt (F64.ofF32 0xBE4CCCCD#32) F64.zero = true) := by
  decide +kernel

/-- The rate hypotheses of OscProcAdvancesOneSample, AenvProcActsByStage,
MenvProcMultipliesAndNeverRises, FiltProcFiltersOneSample and TickAdvancesAllFourUnits. -/
theorem witness_rated : rated.osc.sampleRate = some r44 ∧ rated.aenv.sampleRate = some r44 ∧
    rated.menv.sampleRate = some r44 ∧ rated.filt.sampleRate = some r44 ∧
    f32Finite 0x00000000#32 = true := by
  refine ⟨rfl, rfl, rfl, rfl, ?_⟩; decide

/-- GlideEndsExactlyAtItsTarget: the last sample of a glide of two, and one before it. -/
theorem witness_GlideEndsExactlyAtItsTarget :
    let s := { rated with osc := { rated.osc with glideSteps := 2 } }
    (∀ c ∈ [Instr.oscProc, .tick 0#32], isOscSample c) ∧ s.osc.sampleRate.isSome = true ∧
      s.aenv.sampleRate.isSome = true ∧ s.menv.sampleRate.isSome = true ∧
      s.filt.sampleRate.isSome = true ∧ s.osc.targetFrequency.isFinite = true ∧
      0 < [Instr.oscProc, .tick 0#32].length ∧
      [Instr.oscProc, .tick 0#32].length = s.osc.glideSteps ∧ [Instr.oscProc].length < s.osc.glideSteps := by
  refine ⟨?_, rfl, rfl, rfl, rfl, by decide +kernel, by decide, rfl, by decide⟩
  intro c hc
  simp only [List.mem_cons, List.not_mem_nil, or_false] at hc
  rcases hc with h | h <;> subst h
  · trivial
  · show f32Finite 0#32 = true
    decide

/-- AenvTimesAreStoredAsGiven and the last clauses of MenvSettersRecomputeTheCoefficient and
FiltSettersReconfigure: a rate that is unset and one that is set. -/
theorem witness_rate_clauses :
    f32Finite 0x40A00000#32 = true ∧ State.reset.aenv.sampleRate = none ∧
      rated.aenv.sampleRate = some r44 ∧ State.reset.menv.sampleRate = none ∧
      rated.menv.sampleRate = some r44 ∧ State.reset.filt.sampleRate = none ∧
      rated.filt.sampleRate = some r44 := by
  refine ⟨?_, rfl, rfl, rfl, rfl, rfl, rfl⟩; decide

/-- AenvProcActsByStage: each stage. -/
theorem witness_AenvProcActsByStage :
    ∀ st ∈ [Stage.idle, .attack, .decay, .release],
      let s := { rated with aenv := { rated.aenv with stage := st } }
      s.aenv.sampleRate = some r44 ∧ s.aenv.stage = st := fun _ _ => ⟨rfl, rfl⟩

/-- ReleaseNeverRises: at the upper and at the lower end of both ranges. -/
theorem witness_ReleaseNeverRises :
    ∀ v ∈ [F64.zero, F64.one],
      let s := { rated with aenv := { rated.aenv with stage := .release, level := v, releaseCoef := v } }
      s.aenv.sampleRate = some r44 ∧ s.aenv.stage = .release ∧ inUnit s.aenv.level = true ∧
        inUnit s.aenv.releaseCoef = true := by
  intro v hv
  simp only [List.mem_cons, List.not_mem_nil, or_false] at hv
  rcases hv with h | h <;> subst h <;> exact ⟨rfl, rfl, by decide +kernel, by decide +kernel⟩

/-- ReleaseNeverRises, its last clause: the greatest value below 1, and zero. -/
theorem witness_ReleaseNeverRises_ends :
    ∀ c ∈ [(⟨0x3FEFFFFFFFFFFFFF#64⟩ : F64), F64.zero],
      let s := { rated with
        aenv := { rated.aenv with stage := .release, level := F64.one, releaseCoef := c } }
      s.aenv.sampleRate = some r44 ∧ s.aenv.stage = .release ∧ inUnit s.aenv.level = true ∧
        inUnit s.aenv.releaseCoef = true ∧ F64.lt s.aenv.releaseCoef F64.one = true := by
  intro c hc
  simp only [List.mem_cons, List.not_mem_nil, or_false] at hc
  rcases hc with h | h <;> subst h <;>
    exact ⟨rfl, rfl, by decide +kernel, by decide +kernel, by decide +kernel⟩

/-- MenvProcMultipliesAndNeverRises, the clause of the ranges, and
ModulationLevelNeverRisesBetweenTriggers. -/
theorem witness_ModulationLevelNeverRisesBetweenTriggers :
    let s := { rated with menv := { rated.menv with level := F64.one, decayCoef := half } }
    inUnit s.menv.level = true ∧ inUnit s.menv.decayCoef = true ∧ Instr.nop ≠ .menvTrig ∧
      exec .nop s = .next s := by
  refine ⟨by decide +kernel, by decide +kernel, by decide, rfl⟩

/-- ModulatedCutoffStaysInRange: at 44100 Hz, and at 12 Hz, where `0.45 * 12 = 5.4`. -/
theorem witness_ModulatedCutoffStaysInRange :
    ∀ sr ∈ [r44, ⟨0x4028000000000000#64⟩],
      let s := { rated with filt := { rated.filt with sampleRate := some sr } }
      f32Finite 0x3F800000#32 = true ∧ s.filt.sampleRate = some sr ∧ sr.isFinite = true ∧
        (F64.mul (F64.dec 45 2) sr).isFinite = true ∧
        F64.ge (F64.mul (F64.dec 45 2) sr) (F64.ofNat 5) = true ∧
        (F64.add s.filt.cutoff (modulationOffset params
          { input := F64.ofF32 0x3F800000#32, env := F64.ofF32 0x3F800000#32,
            acc := F64.ofF32 0x3F800000#32, fm := F64.ofF32 0x3F800000#32 } s.filt)).isNaN = false := by
  intro sr hsr
  simp only [List.mem_cons, List.not_mem_nil, or_false] at hsr
  rcases hsr with h | h <;> subst h <;>
    exact ⟨by decide, rfl, by decide, by decide +kernel, by decide +kernel, by decide +kernel⟩

/-- AccentHasNoEffect. -/
theorem witness_AccentHasNoEffect :
    f32Finite 0x00000000#32 = true ∧ f32Finite 0x3F333333#32 = true := by decide

/-- PeekReadsEveryRegister: a rate that is unset, one that is set, an unassigned index next to the map. -/
theorem witness_PeekReadsEveryRegister :
    State.reset.osc.sampleRate = none ∧ rated.osc.sampleRate = some r44 ∧
      assignedIndex 12#32 = false ∧ assignedIndex 63#32 = false := by
  refine ⟨rfl, rfl, ?_, ?_⟩ <;> decide

/-- TickEqualsTheFourUnitCommands: the first sample after reset, and one at the middle of a period. -/
theorem witness_TickEqualsTheFourUnitCommands :
    ∀ ph ∈ [F64.zero, half],
      let s := { rated with osc := { rated.osc with phase := ph } }
      let o := (oscProcess params r44 s.osc).sample
      let a := (aenvProcess binary64 s.aenv).sample
      let m := (menvProcess binary64 s.menv).sample
      f32Finite 0#32 = true ∧ s.osc.sampleRate = some r44 ∧ s.aenv.sampleRate = some r44 ∧
        s.menv.sampleRate = some r44 ∧ s.filt.sampleRate = some r44 ∧ o.isFinite = true ∧
        a.isFinite = true ∧ m.isFinite = true ∧ F64.ofF32 (F64.r32 o) = o ∧
        F64.ofF32 (F64.r32 a) = a ∧ F64.ofF32 (F64.r32 m) = m := by
  intro ph hph
  simp only [List.mem_cons, List.not_mem_nil, or_false] at hph
  rcases hph with h | h <;> subst h <;> decide +kernel

/-- RepeatingASetCommandChangesNothing. -/
theorem witness_RepeatingASetCommandChangesNothing :
    isSetter (.aenvSr 0x472C4400#32) ∧ isSetter (.filtFmamt 0x7F800000#32) := ⟨trivial, trivial⟩

/-- SettersCommuteWithTheRate: the first and the last pair of its list. -/
theorem witness_SettersCommuteWithTheRate :
    (Instr.aenvAtk 0#32, Instr.aenvSr 0#32) ∈ [(Instr.aenvAtk 0#32, Instr.aenvSr 0#32)] ∧
      (Instr.oscJc303 2#32, Instr.oscSr 0#32) ∈ [(Instr.oscJc303 2#32, Instr.oscSr 0#32)] := by decide

/-- NoteDispatchOrderIsInvisible, both notes. -/
theorem witness_NoteDispatchOrderIsInvisible :
    [Instr.menvTrig, .aenvOn, .oscFreq 0x43DC0000#32].Perm [.oscFreq 0x43DC0000#32, .aenvOn, .menvTrig] ∧
    [Instr.aenvOn, .oscGlide 0x43DC0000#32 0#32, .menvTrig].Perm
      [.oscGlide 0x43DC0000#32 0#32, .aenvOn, .menvTrig] := by
  decide

/-- StepsKeepRegistersFinite, StepsKeepControlLegal and StepsKeepSignalsLegal: a legal state in which a
set-sample-rate command is offered. -/
theorem witness_StepsKeepLegal :
    let s := offered [0x00000110#32, 0x472C4400#32]
    registersFinite s = true ∧ controlLegal s = true ∧ signalsLegal s = true ∧
      after (step s) (fun t => t.osc.sampleRate == some r44) = true := by decide +kernel

/-- ClampGivesTheUpperBoundWhenSwapped. -/
theorem witness_ClampGivesTheUpperBoundWhenSwapped :
    half.isNaN = false ∧ F64.lt F64.zero F64.one = true := by decide +kernel

/-- ArithmeticIsCorrectlyRounded and ComparisonsAreExact: finite operands, the greatest value (whose sum
with itself overflows) and a zero of either sign among them. -/
theorem witness_ArithmeticIsCorrectlyRounded :
    [F64.one, half, F64.zero, F64.neg F64.zero, ⟨0x7FEFFFFFFFFFFFFF#64⟩].all F64.isFinite = true ∧
      half.isZero = false := by decide +kernel
/-- Rule R7: ties go to the even pattern, and a sum beyond the greatest value is an infinity. -/
theorem test_rounding :
    F64.add F64.one ⟨0x3CA0000000000000#64⟩ = F64.one ∧
    F64.add ⟨0x3FF0000000000001#64⟩ ⟨0x3CA0000000000000#64⟩ = ⟨0x3FF0000000000002#64⟩ ∧
    F64.add ⟨0x7FEFFFFFFFFFFFFF#64⟩ ⟨0x7FEFFFFFFFFFFFFF#64⟩ = F64.inf false := by decide +kernel

/-- ElementaryFunctionsAreRounded: `sqrt` at both zeros and at 44100; `exp` and `tanh` at one half and at
its negative, where the first precision settles; `pow` at the exponents one half and one. -/
theorem witness_ElementaryFunctionsAreRounded_sqrt :
    [F64.zero, F64.neg F64.zero, r44].all (fun x => x.isFinite && F64.ge x F64.zero) = true := by
  decide +kernel
theorem witness_ElementaryFunctionsAreRounded_exp :
    ∀ x ∈ [half, F64.neg half], x.isFinite = true ∧
      settled fun dir P => expFrac dir P (if x.isNeg then -(x.num : ℤ) else x.num) x.den := by
  intro x hx
  simp only [List.mem_cons, List.not_mem_nil, or_false] at hx
  rcases hx with h | h <;> subst h <;> exact ⟨by decide +kernel, 128, by decide, by decide +kernel⟩
theorem witness_ElementaryFunctionsAreRounded_tanh :
    ∀ x ∈ [half, F64.neg half], x.isFinite = true ∧
      settled fun dir P => F64.tanhFrac dir P x.num x.den := by
  intro x hx
  simp only [List.mem_cons, List.not_mem_nil, or_false] at hx
  rcases hx with h | h <;> subst h <;> exact ⟨by decide +kernel, 128, by decide, by decide +kernel⟩
theorem witness_ElementaryFunctionsAreRounded_pow :
    r44.isFinite = true ∧ F64.lt F64.zero r44 = true ∧
    (F64.lt F64.zero half = true ∧ F64.ge F64.one half = true ∧
      settled fun dir P =>
        expFrac dir P (lnBound dir P r44.num r44.den * (half.num : ℤ)) (half.den <<< P)) ∧
    (F64.lt F64.zero F64.one = true ∧ F64.ge F64.one F64.one = true) :=
  ⟨by decide +kernel, by decide +kernel,
    ⟨by decide +kernel, by decide +kernel, 128, by decide, by decide +kernel⟩,
    by decide +kernel, by decide +kernel⟩

/-- PortResultsAreNearest: finite, an infinity of either sign, a NaN. -/
theorem witness_PortResultsAreNearest :
    r44.isFinite = true ∧ F64.inf true = F64.inf true ∧ F64.nan.isNaN = true := by decide +kernel
/-- Rules R9 and R262: a tie goes to the even word, and the overflow threshold to the infinity. -/
theorem test_r32_rounding :
    F64.r32 ⟨0x3FF0000010000000#64⟩ = 0x3F800000#32 ∧ F64.r32 ⟨0x3FF0000030000000#64⟩ = 0x3F800002#32 ∧
    F64.r32 ⟨0x47EFFFFFF0000000#64⟩ = 0x7F800000#32 ∧
    F64.r32 ⟨0x47EFFFFFEFFFFFFF#64⟩ = 0x7F7FFFFF#32 := by decide +kernel

/-- FracOfNonNegativeIsInHalfOpenUnit: zero of either sign, one, and 44100. -/
theorem witness_FracOfNonNegativeIsInHalfOpenUnit :
    [F64.zero, F64.neg F64.zero, F64.one, r44].all (fun x => x.isFinite && F64.ge x F64.zero) = true := by
  decide +kernel

/-- ExponentialIsEnclosed and LogarithmIsEnclosed. -/
theorem witness_enclosures : 0 < 1 ∧ 0 < 10 := by decide

end Sys2Proof.Machine.Tests
end

/-! ## Lemmas shared by the commands' statements -/

section

namespace Sys2Proof.Machine

/-! ### Written values and recorded overflows -/

theorem lt_self (a : F64) : F64.lt a a = false := by simp [F64.lt]

/-- Overflow flags of two groups of written values are those of the values together. -/
theorem anyNonfinite_append (N : Arith) (vs ws : List F64) :
    anyNonfinite N (vs ++ ws) = (anyNonfinite N vs || anyNonfinite N ws) := List.any_append

/-- Only which values were computed counts for the record of ERR_OVERFLOW, not their order. -/
theorem stickyAfter_perm {regs regs' : List F64} (h : regs.Perm regs') (out : List F64)
    (t : Sticky) : stickyAfter regs out t = stickyAfter regs' out t := by
  unfold stickyAfter
  rw [h.any_eq]

/-- A finite value written to a register adds nothing to the record. -/
theorem stickyAfter_cons_of_finite {v : F64} (h : v.isFinite = true) (regs out : List F64)
    (t : Sticky) : stickyAfter (v :: regs) out t = stickyAfter regs out t := by
  simp [stickyAfter, h]

/-- The end of a setter in the terms of the statements. -/
theorem complete_setter (regs : List F64) (s : State) :
    complete binary64 (anyNonfinite binary64 regs) [] s =
      { s with sticky := stickyAfter regs [] s.sticky } := by
  rw [complete_stickyAfter]; simp

@[simp] theorem coefsNonfinite_binary64 (c : Coefs) :
    coefsNonfinite binary64 c = anyNonfinite binary64 [c.b0, c.k, c.g] := rfl

@[simp] theorem settleCoefs_binary64 (c : Coefs) :
    settleCoefs binary64 c = { b0 := written c.b0, k := written c.k, g := written c.g } := rfl

/-! ### Finite floors -/

theorem srMin_isFinite : params.srMin.isFinite = true := by decide +kernel
theorem freqMin_isFinite : params.freqMin.isFinite = true := by decide +kernel

/-- On finite values `>=` holds where `<` fails. -/
theorem ge_of_not_lt {a b : F64} (ha : a.isFinite = true) (hb : b.isFinite = true)
    (h : F64.lt a b = false) : F64.ge a b = true := by
  simpa [F64.lt, F64.ge, F64.not_isNaN_of_isFinite ha, F64.not_isNaN_of_isFinite hb] using h

/-- `max` of finite values is at least its first operand. -/
theorem ge_max_left {a b : F64} (ha : a.isFinite = true) (hb : b.isFinite = true) :
    F64.ge (F64.max a b) a = true := by
  rcases max_cases a b with ⟨h, -⟩ | ⟨h, hlt⟩ <;> rw [h]
  · exact ge_of_not_lt ha ha (lt_self a)
  · exact ge_of_not_lt hb ha hlt

end Sys2Proof.Machine

/-! ## The units share no state (rule R2) -/

namespace Sys2Proof.Machine

/-- What a command leaves alone that writes no unit but those numbered in `own`: the inputs, the
framing position, and every other unit. -/
structure WritesOnly (own : List Nat) (s t : State) : Prop where
  cmdPort : t.cmdPort = s.cmdPort
  resetIn : t.resetIn = s.resetIn
  framing : t.framing = s.framing
  osc : 1 ∉ own → t.osc = s.osc
  aenv : 2 ∉ own → t.aenv = s.aenv
  menv : 3 ∉ own → t.menv = s.menv
  filt : 4 ∉ own → t.filt = s.filt

/-- The outcome, if it is a next state, wrote only the units numbered in `own`. -/
def ResultWritesOnly (own : List Nat) (s : State) (r : Result) : Prop :=
  ∀ t, r = .next t → WritesOnly own s t

theorem WritesOnly.refl (own : List Nat) (s : State) : WritesOnly own s s := by
  constructor <;> intros <;> rfl

theorem WritesOnly.toResult {own : List Nat} {s t : State} (h : WritesOnly own s t) :
    ResultWritesOnly own s (.next t) := by
  rintro _ ⟨⟩; exact h

theorem WritesOnly.complete {own : List Nat} {s t : State} (N : Arith) (b : Bool) (out : List F64)
    (h : WritesOnly own s t) : WritesOnly own s (complete N b out t) := by
  obtain ⟨hcmd, hreset, hframing, hosc, haenv, hmenv, hfilt⟩ := h
  constructor <;> simpa

theorem writesOnly_emitWords (own : List Nat) (ws : List Word) (s : State) :
    WritesOnly own s (emitWords ws s) := by
  constructor <;> intros <;> rfl

theorem writesOnly_dropCommand (own : List Nat) (e : ErrCode) (n : Nat) (s : State) :
    WritesOnly own s (dropCommand e n s) := by
  constructor <;> intros <;> rfl

theorem writesOnly_emitRegister (own : List Nat) (N : Arith) (v : RegValue) (s : State) :
    WritesOnly own s (emitRegister N v s) := by
  cases v with
  | u32 w => exact writesOnly_emitWords ..
  | real x => exact (WritesOnly.refl own s).complete N _ _

theorem writesOnly_withF32 {own : List Nat} {n : Nat} {N : Arith} {w : Word} {s : State}
    {run : F64 → Result} (h : ∀ v, ResultWritesOnly own s (run v)) :
    ResultWritesOnly own s (withF32 N w n s run) := by
  intro t ht
  rcases withF32_cases ht with ⟨-, hrun⟩ | ⟨-, rfl⟩
  · exact h _ t hrun
  · exact writesOnly_dropCommand ..

theorem writesOnly_withU32 {α : Type} {own : List Nat} {n : Nat} {m : Option α} {s : State}
    {run : α → Result} (h : ∀ v, ResultWritesOnly own s (run v)) :
    ResultWritesOnly own s (withU32 m n s run) := by
  intro t ht
  rcases withU32_cases ht with ⟨v, -, hrun⟩ | ⟨-, rfl⟩
  · exact h v t hrun
  · exact writesOnly_dropCommand ..

theorem writesOnly_withRate {own : List Nat} {n : Nat} {r : Option F64} {s : State}
    {run : F64 → Result} (h : ∀ sr, ResultWritesOnly own s (run sr)) :
    ResultWritesOnly own s (withRate r n s run) := by
  intro t ht
  rcases withRate_cases ht with ⟨sr, -, hrun⟩ | ⟨-, rfl⟩
  · exact h sr t hrun
  · exact writesOnly_dropCommand ..

theorem writesOnly_osc (o : Osc) (s : State) : WritesOnly [1] s { s with osc := o } := by
  constructor <;> simp

theorem writesOnly_aenv (a : Aenv) (s : State) : WritesOnly [2] s { s with aenv := a } := by
  constructor <;> simp

theorem writesOnly_menv (m : Menv) (s : State) : WritesOnly [3] s { s with menv := m } := by
  constructor <;> simp

theorem writesOnly_filt (f : Filt) (s : State) : WritesOnly [4] s { s with filt := f } := by
  constructor <;> simp

theorem writesOnly_units (o : Osc) (a : Aenv) (m : Menv) (f : Filt) (s : State) :
    WritesOnly [1, 2, 3, 4] s { s with osc := o, aenv := a, menv := m, filt := f } := by
  constructor <;> simp

theorem writesOnly_completeOsc (N : Arith) (u : Update Osc) (s : State) :
    ResultWritesOnly [1] s (completeOsc N u s) := ((writesOnly_osc _ s).complete N _ _).toResult

theorem writesOnly_completeAenv (N : Arith) (u : Update Aenv) (s : State) :
    ResultWritesOnly [2] s (completeAenv N u s) := ((writesOnly_aenv _ s).complete N _ _).toResult

theorem writesOnly_completeMenv (N : Arith) (u : Update Menv) (s : State) :
    ResultWritesOnly [3] s (completeMenv N u s) := ((writesOnly_menv _ s).complete N _ _).toResult

theorem writesOnly_completeFilt (N : Arith) (u : Update Filt) (s : State) :
    ResultWritesOnly [4] s (completeFilt N u s) := ((writesOnly_filt _ s).complete N _ _).toResult

/-- The units a command may write: OSC 1, AENV 2, MENV 3, FILT 4; the block commands, numbered 0, none
but TICK. -/
def ownUnits : Instr → List Nat
  | .tick _ => [1, 2, 3, 4]
  | .nop | .reset | .peek _ => [0]
  | .oscSr _ | .oscFreq _ | .oscGlide _ _ | .oscWave _ | .oscBlend _ | .oscSubblend _ | .oscJc303 _
  | .oscPhrst | .oscProc => [1]
  | .aenvSr _ | .aenvAtk _ | .aenvDec _ | .aenvRel _ | .aenvOn | .aenvOff | .aenvProc
  | .aenvActive => [2]
  | .menvSr _ | .menvDec _ | .menvTrig | .menvProc => [3]
  | .filtSr _ | .filtCut _ | .filtRes _ | .filtEnvmod _ | .filtFmamt _ | .filtProc _ _ _ _ => [4]

/-- The opcodes are numbered by unit (rule R81): but for TICK a command writes the unit of its header. -/
theorem ownUnits_eq_unitOf (i : Instr) (h : ∀ fm, i ≠ .tick fm) : ownUnits i = [unitOf i] := by
  cases i with
  | tick fm => exact absurd rfl (h fm)
  | _ => simp [unitOf, opcField, headerOf, ownUnits]

/-- A command other than RESET writes only its own units. -/
theorem exec_writesOnly (i : Instr) (s : State) (hreset : i ≠ .reset) :
    ResultWritesOnly (ownUnits i) s (exec i s) := by
  rw [exec_eq_execWith]
  cases i with
  | nop => exact (WritesOnly.refl _ s).toResult
  | reset => contradiction
  | tick fm =>
    simp only [execWith, execTickWith]
    exact writesOnly_withF32 fun x => writesOnly_withRate fun srO => writesOnly_withRate fun srA =>
      writesOnly_withRate fun srM => writesOnly_withRate fun srF =>
        ((writesOnly_units _ _ _ _ s).complete ..).toResult
  | peek index =>
    simp only [execWith, execPeekWith]
    exact writesOnly_withU32 fun v => (writesOnly_emitRegister _ _ v s).toResult
  | oscSr hz =>
    simp only [execWith, execOscSrWith]
    exact writesOnly_withF32 fun v => writesOnly_completeOsc _ _ _
  | oscFreq hz =>
    simp only [execWith, execOscFreqWith]
    exact writesOnly_withF32 fun v => writesOnly_completeOsc _ _ _
  | oscGlide hz ms =>
    simp only [execWith, execOscGlideWith]
    exact writesOnly_withF32 fun f => writesOnly_withF32 fun t => writesOnly_withRate fun sr =>
      writesOnly_completeOsc _ _ _
  | oscWave w =>
    simp only [execWith, execOscWaveWith]
    exact writesOnly_withU32 fun b => (writesOnly_osc _ s).toResult
  | oscBlend b =>
    simp only [execWith, execOscBlendWith]
    exact writesOnly_withF32 fun v => writesOnly_completeOsc _ _ _
  | oscSubblend sb =>
    simp only [execWith, execOscSubblendWith]
    exact writesOnly_withF32 fun v => writesOnly_completeOsc _ _ _
  | oscJc303 m =>
    simp only [execWith, execOscJc303]
    exact writesOnly_withU32 fun b => (writesOnly_osc _ s).toResult
  | oscPhrst => exact (writesOnly_osc _ s).toResult
  | oscProc =>
    simp only [execWith, execOscProcWith]
    exact writesOnly_withRate fun sr => ((writesOnly_osc _ s).complete ..).toResult
  | aenvSr hz =>
    simp only [execWith, execAenvSrWith]
    exact writesOnly_withF32 fun v => writesOnly_completeAenv _ _ _
  | aenvAtk ms =>
    simp only [execWith, execAenvAtkWith]
    exact writesOnly_withF32 fun v => writesOnly_completeAenv _ _ _
  | aenvDec ms =>
    simp only [execWith, execAenvDecWith]
    exact writesOnly_withF32 fun v => writesOnly_completeAenv _ _ _
  | aenvRel ms =>
    simp only [execWith, execAenvRelWith]
    exact writesOnly_withF32 fun v => writesOnly_completeAenv _ _ _
  | aenvOn => exact (writesOnly_aenv _ s).toResult
  | aenvOff => exact (writesOnly_aenv _ s).toResult
  | aenvProc =>
    simp only [execWith, execAenvProcWith]
    exact writesOnly_withRate fun sr => ((writesOnly_aenv _ s).complete ..).toResult
  | aenvActive => exact (writesOnly_emitWords _ _ s).toResult
  | menvSr hz =>
    simp only [execWith, execMenvSrWith]
    exact writesOnly_withF32 fun v => writesOnly_completeMenv _ _ _
  | menvDec ms =>
    simp only [execWith, execMenvDecWith]
    exact writesOnly_withF32 fun v => writesOnly_completeMenv _ _ _
  | menvTrig => exact (writesOnly_menv _ s).toResult
  | menvProc =>
    simp only [execWith, execMenvProcWith]
    exact writesOnly_withRate fun sr => ((writesOnly_menv _ s).complete ..).toResult
  | filtSr hz =>
    simp only [execWith, execFiltSrWith]
    exact writesOnly_withF32 fun v => writesOnly_completeFilt _ _ _
  | filtCut hz =>
    simp only [execWith, execFiltCutWith]
    exact writesOnly_withF32 fun v => writesOnly_completeFilt _ _ _
  | filtRes r =>
    simp only [execWith, execFiltResWith]
    exact writesOnly_withF32 fun v => writesOnly_completeFilt _ _ _
  | filtEnvmod depth =>
    simp only [execWith, execFiltEnvmodWith]
    exact writesOnly_withF32 fun v => (writesOnly_filt _ s).toResult
  | filtFmamt depth =>
    simp only [execWith, execFiltFmamtWith]
    exact writesOnly_withF32 fun v => (writesOnly_filt _ s).toResult
  | filtProc input env acc fm =>
    simp only [execWith, execFiltProcWith]
    exact writesOnly_withF32 fun x => writesOnly_withF32 fun e => writesOnly_withF32 fun a =>
      writesOnly_withF32 fun m => writesOnly_withRate fun sr =>
        ((writesOnly_filt _ s).complete ..).toResult

/-- Settles O18: the frame of each command, by the operations its meaning is written over. -/
theorem unitsShareNoState : Obligations.UnitsShareNoState := by
  intro i s t h
  by_cases hreset : i = .reset
  · subst hreset
    cases h
    exact ⟨rfl, rfl, fun hne => absurd rfl hne, fun hne => absurd rfl hne⟩
  obtain ⟨hcmd, hin, hframing, hosc, haenv, hmenv, hfilt⟩ := exec_writesOnly i s hreset t h
  refine ⟨hcmd, hin, fun _ => hframing, fun _ htick => ?_⟩
  simp only [ownUnits_eq_unitOf i htick, List.mem_singleton] at hosc haenv hmenv hfilt
  exact ⟨fun hu => hosc hu.symm, fun hu => haenv hu.symm, fun hu => hmenv hu.symm,
    fun hu => hfilt hu.symm⟩

end Sys2Proof.Machine

end


/-! ## The defaults and the swapped clamp (rules R7 and R12) -/

section

namespace Sys2Proof.Machine

/-- Settles O52: every formula is the default column's own, operation by operation. -/
theorem defaultParametersAreTheSpecs : Obligations.DefaultParametersAreTheSpecs := by
  refine ⟨⟨rfl, by decide +kernel, by decide +kernel, rfl, rfl⟩, fun _ _ => rfl, fun fc sr rs => ?_,
    fun y0 b0 y => ?_, fun sr st v => ?_, fun _ => rfl, fun _ _ _ _ => rfl,
    fun i s => ⟨exec_eq_execWith i s, step_eq_stepWith s⟩, rfl⟩
  · change coefDefault binary64 fc sr rs = _
    simp only [coefDefault, binary64_add, binary64_sub, binary64_mul, binary64_div, binary64_sqrt,
      binary64_dec, binary64_ofNat, binary64_one]
  · change stageDefault binary64 y0 y b0 = _
    simp only [stageDefault, binary64_add, binary64_sub, binary64_mul, binary64_ofNat]
  · change hpfDefault binary64 sr st v = _
    simp only [hpfDefault, binary64_add, binary64_sub, binary64_mul, binary64_div, binary64_exp,
      binary64_neg, binary64_pi, binary64_ofNat, binary64_one]

/-- `min` answers its second operand where that is the less. -/
theorem min_eq_second {a b : F64} (h : F64.lt b a = true) : F64.min a b = b := by
  simp [F64.min, lt_asymm h, h]

/-- What is less than a number is less than everything not below that number. -/
theorem lt_of_lt_of_not_lt {a b c : F64} (hc : c.isNaN = false) (hab : F64.lt a b = true)
    (hcb : F64.lt c b = false) : F64.lt a c = true := by
  simp only [F64.lt, Bool.and_eq_true, Bool.not_eq_true', decide_eq_true_eq] at hab
  obtain ⟨⟨ha, hb⟩, hlt⟩ := hab
  simp only [F64.lt, hc, hb, Bool.not_false, Bool.true_and, decide_eq_false_iff_not] at hcb
  simp only [F64.lt, ha, hc, Bool.not_false, Bool.true_and, decide_eq_true_eq]
  omega

/-- Settles O51: whichever operand `max` picked, `hi` is less than it. -/
theorem clampGivesTheUpperBoundWhenSwapped : Obligations.ClampGivesTheUpperBoundWhenSwapped := by
  refine fun x lo hi => ⟨rfl, fun hx hlt => min_eq_second ?_⟩
  rcases max_cases x lo with ⟨h, hnot⟩ | ⟨h, -⟩ <;> rw [h]
  · exact lt_of_lt_of_not_lt hx hlt hnot
  · exact hlt

/-! ## The sample commands (rules R124, R157, R184, R214 and R241) -/

/-- A glide step in the terms of the statements: the frequency is written only while a glide runs. -/
theorem glideStep_binary64 (o : Osc) :
    glideStep binary64 o =
      { unit := { o with
          glideSteps := o.glideSteps - 1
          frequency := if o.glideSteps = 0 then o.frequency else written (glidedFrequency binary64 o) }
        overflow := anyNonfinite binary64
          (if o.glideSteps = 0 then [] else [glidedFrequency binary64 o]) } := by
  by_cases h : o.glideSteps = 0
  · obtain ⟨_, _, _, _, n, _, _, _, _, _, _⟩ := o
    obtain rfl : n = 0 := h
    simp [glideStep]
  · simp [glideStep, h]

/-- The end of OSC_PROC with the rate set: what it writes, emits and records. -/
theorem execOscProc_of_process {s : State} {sr : F64} (hsr : s.osc.sampleRate = some sr)
    {u : Osc} {out : F64} {raw : List F64}
    (h : oscProcess params sr s.osc =
      { unit := u, sample := out, overflow := anyNonfinite binary64 raw }) :
    exec .oscProc s = .next
      { s with osc := u
               resp := s.resp ++ [F64.r32 out]
               sticky := stickyAfter raw [out] s.sticky } := by
  change execOscProcWith params s = _
  simp only [execOscProcWith, hsr, withRate_some, params_num, h, complete_stickyAfter]
  rfl

/-- Settles O27: the three cases of the glide step; the rest of the body is the pseudocode's. -/
theorem oscProcAdvancesOneSample : Obligations.OscProcAdvancesOneSample := by
  intro s sr hsr o raw f dt dts half pw saw square subOsc main out ph sp
  have hglide : (glideStep binary64 s.osc).unit =
        { o with glideSteps := o.glideSteps - 1, frequency := f } ∧
      (glideStep binary64 s.osc).overflow =
        anyNonfinite binary64 (if o.glideSteps = 0 then [] else [raw]) := by
    rw [glideStep_binary64]
    by_cases h : s.osc.glideSteps = 0
    · simp [o, f, h]
    · simp [o, f, raw, h, glidedFrequency]
  have hprocess : oscProcess params sr s.osc =
      { unit := { o with
          phase := written ph, subPhase := written sp, frequency := f,
          glideSteps := o.glideSteps - 1, out := written out }
        sample := out
        overflow := anyNonfinite binary64 ((if o.glideSteps = 0 then [] else [raw]) ++ [ph, sp, out]) } := by
    rw [anyNonfinite_append, ← hglide.2]
    simp only [oscProcess, params_num, hglide.1, oscSample, sawSample, squareSample, pulseWidth,
      binary64_add, binary64_sub, binary64_mul, binary64_div, binary64_dec, binary64_ofNat, binary64_lt,
      binary64_one, binary64_neg, binary64_frac, settle_binary64]
    rfl
  exact execOscProc_of_process hsr hprocess

/-- The end of AENV_PROC for one stage action: what it writes, emits and records. -/
theorem execAenvProc_of_process {s : State} {sr : F64} (hsr : s.aenv.sampleRate = some sr)
    {u : Aenv} {raw : List F64}
    (h : aenvProcess binary64 s.aenv =
      { unit := u, sample := u.level, overflow := anyNonfinite binary64 raw }) :
    exec .aenvProc s = .next
      { s with aenv := u
               resp := s.resp ++ [F64.r32 u.level]
               sticky := stickyAfter raw [u.level] s.sticky } := by
  change execAenvProcWith params s = _
  simp only [execAenvProcWith, hsr, withRate_some, params_num, h, complete_stickyAfter]
  rfl

/-- The Decay and the Release action in the terms of the statements. -/
theorem aenvFall_binary64 (c : F64) (a : Aenv) :
    aenvFall binary64 c a =
      { unit := if F64.lt (written (F64.mul a.level c)) (F64.dec 1 4) then
            { a with level := F64.zero, stage := .idle }
          else { a with level := written (F64.mul a.level c) }
        overflow := anyNonfinite binary64 [F64.mul a.level c] } := by
  simp only [aenvFall, levelFloor, binary64_mul, binary64_lt, binary64_dec, binary64_zero,
    settle_binary64]
  by_cases h : F64.lt (written (F64.mul a.level c)) (F64.dec 1 4) = true
  · exact (if_pos h).trans (by rw [if_pos h])
  · exact (if_neg h).trans (by rw [if_neg h])

/-- The Attack action in the terms of the statements. -/
theorem aenvRise_binary64 (a : Aenv) :
    aenvRise binary64 a =
      { unit := if F64.ge (written (F64.add a.level a.attackInc)) F64.one then
            { a with level := F64.one, stage := .decay }
          else { a with level := written (F64.add a.level a.attackInc) }
        overflow := anyNonfinite binary64 [F64.add a.level a.attackInc] } := by
  simp only [aenvRise, binary64_add, binary64_ge, binary64_one, settle_binary64]
  by_cases h : F64.ge (written (F64.add a.level a.attackInc)) F64.one = true
  · exact (if_pos h).trans (by rw [if_pos h])
  · exact (if_neg h).trans (by rw [if_neg h])

theorem aenvProcess_idle {a : Aenv} (h : a.stage = .idle) :
    aenvProcess binary64 a =
      { unit := a, sample := a.level, overflow := anyNonfinite binary64 [] } := by
  simp [aenvProcess, h]

theorem aenvProcess_attack {a : Aenv} (h : a.stage = .attack) :
    aenvProcess binary64 a =
      { unit := (aenvRise binary64 a).unit, sample := (aenvRise binary64 a).unit.level,
        overflow := (aenvRise binary64 a).overflow } := by
  simp [aenvProcess, h]

theorem aenvProcess_decay {a : Aenv} (h : a.stage = .decay) :
    aenvProcess binary64 a =
      { unit := (aenvFall binary64 a.decayCoef a).unit,
        sample := (aenvFall binary64 a.decayCoef a).unit.level,
        overflow := (aenvFall binary64 a.decayCoef a).overflow } := by
  simp [aenvProcess, h]

theorem aenvProcess_release {a : Aenv} (h : a.stage = .release) :
    aenvProcess binary64 a =
      { unit := (aenvFall binary64 a.releaseCoef a).unit,
        sample := (aenvFall binary64 a.releaseCoef a).unit.level,
        overflow := (aenvFall binary64 a.releaseCoef a).overflow } := by
  simp [aenvProcess, h]

/-- Settles O31: one case per stage. -/
theorem aenvProcActsByStage : Obligations.AenvProcActsByStage := by
  intro s sr hsr a done fallen up
  refine ⟨fun h => ?_, fun h => ?_, fun h => ?_, fun h => ?_⟩
  · exact execAenvProc_of_process hsr (aenvProcess_idle h)
  · exact execAenvProc_of_process hsr (by rw [aenvProcess_attack h, aenvRise_binary64])
  · exact execAenvProc_of_process hsr (by rw [aenvProcess_decay h, aenvFall_binary64])
  · exact execAenvProc_of_process hsr (by rw [aenvProcess_release h, aenvFall_binary64])

/-! ## The ladder filter (rules R200, R206 to R209 and R212 to R214) -/

/-- `configureFilt` in the terms of the statements: the coefficients are computed from the written
cutoff. -/
theorem configureFilt_params (sr : F64) (f : Filt) :
    configureFilt params sr f =
      let fc := clampCutoff binary64 sr f.cutoff
      let c := params.coef (written fc) sr (skewedResonance binary64 f.resonance)
      { unit := { f with
          fc := written fc, coefs := { b0 := written c.b0, k := written c.k, g := written c.g } }
        overflow := anyNonfinite binary64 [fc, c.b0, c.k, c.g] } := by
  simp only [configureFilt, params_num, settle_binary64, settleCoefs_binary64,
    coefsNonfinite_binary64, ← anyNonfinite_append, List.cons_append, List.nil_append]

theorem clampCutoff_binary64 (sr fc : F64) :
    clampCutoff binary64 sr fc = F64.clamp fc (F64.ofNat 5) (F64.mul (F64.dec 45 2) sr) := rfl

theorem skewedResonance_binary64 (r : F64) :
    skewedResonance binary64 r =
      F64.div (F64.sub F64.one (F64.exp (F64.mul (F64.neg (F64.ofNat 3)) r)))
        (F64.dec 9502129316 10) := by
  simp only [skewedResonance, binary64_sub, binary64_mul, binary64_div, binary64_dec, binary64_ofNat,
    binary64_one, binary64_neg, binary64_exp]

/-- The end of a filter setter whose other writes are finite. -/
theorem completeFilt_configure (s : State) (f : Filt) (sr : F64) :
    completeFilt binary64 (configureFilt params sr f) s =
      let fc := F64.clamp f.cutoff (F64.ofNat 5) (F64.mul (F64.dec 45 2) sr)
      let c := params.coef (written fc) sr (F64.div
        (F64.sub F64.one (F64.exp (F64.mul (F64.neg (F64.ofNat 3)) f.resonance)))
        (F64.dec 9502129316 10))
      .next { s with
        filt := { f with
          fc := written fc, coefs := { b0 := written c.b0, k := written c.k, g := written c.g } }
        sticky := stickyAfter [fc, c.b0, c.k, c.g] [] s.sticky } := by
  simp only [completeFilt, configureFilt_params, clampCutoff_binary64, skewedResonance_binary64,
    complete_setter]

/-- A filter setter with the rate unset writes its parameter and nothing else. -/
theorem completeFilt_quiet (s : State) (f : Filt) :
    completeFilt binary64 { unit := f, overflow := false } s = .next { s with filt := f } := by
  simp [completeFilt]

/-- An overflow flag that is never raised by the first write of a setter. -/
theorem finite_write_flag {v : F64} (h : v.isFinite = true) (b : Bool) :
    (anyNonfinite binary64 [v] || b) = b := by simp [h]

/-- FILT_SR on the unit: the floored rate is finite, so it is the rate stored. -/
theorem filtSetRate_ofF32 {w : Word} (hw : f32Finite w = true) (f : Filt) :
    filtSetRate params (F64.ofF32 w) f =
      configureFilt params (F64.max (F64.ofF32 w) params.srMin)
        { f with sampleRate := some (F64.max (F64.ofF32 w) params.srMin) } := by
  have hfin := max_isFinite (F64.ofF32_isFinite hw) srMin_isFinite
  simp only [filtSetRate, storedRate, params_num, binary64_max, settle_binary64,
    written_of_finite hfin, finite_write_flag hfin]

/-- FILT_RES on the unit: the floored resonance is finite, so it is the one stored. -/
theorem filtSetResonance_ofF32 {w : Word} (hw : f32Finite w = true) (f : Filt) :
    filtSetResonance params (F64.ofF32 w) f =
      reconfigureFilt params { f with resonance := F64.max F64.zero (F64.ofF32 w) } := by
  have hfin := max_isFinite F64.zero_isFinite (F64.ofF32_isFinite hw)
  simp only [filtSetResonance, params_num, binary64_max, binary64_zero, settle_binary64,
    written_of_finite hfin, finite_write_flag hfin]

theorem reconfigureFilt_unset {f : Filt} (h : f.sampleRate = none) :
    reconfigureFilt params f = { unit := f, overflow := false } := by
  simp [reconfigureFilt, h]

theorem reconfigureFilt_set {f : Filt} {sr : F64} (h : f.sampleRate = some sr) :
    reconfigureFilt params f = configureFilt params sr f := by
  simp [reconfigureFilt, h]

/-- Settles O36: each setter is its parameter's write and, with the rate set, `configureFilt`. -/
theorem filtSettersReconfigure : Obligations.FiltSettersReconfigure := by
  intro w s hw f v fcOf rs configured rate res
  have hfin : v.isFinite = true := F64.ofF32_isFinite hw
  have hcut : exec (.filtCut w) s =
      completeFilt binary64 (reconfigureFilt params { f with cutoff := v }) s := by
    change execFiltCutWith params w s = _
    rw [execFiltCutWith, withF32_finite hw]
    rfl
  have hres : exec (.filtRes w) s =
      completeFilt binary64 (reconfigureFilt params { f with resonance := res }) s := by
    change execFiltResWith params w s = _
    rw [execFiltResWith, withF32_finite hw, params_num, binary64_ofF32, filtSetResonance_ofF32 hw]
  refine ⟨?_, ge_max_left F64.zero_isFinite hfin, fun hsr => ⟨?_, ?_⟩, fun sr hsr => ⟨?_, ?_⟩⟩
  · change execFiltSrWith params w s = _
    rw [execFiltSrWith, withF32_finite hw, params_num, binary64_ofF32, filtSetRate_ofF32 hw,
      completeFilt_configure]
  · rw [hcut, reconfigureFilt_unset (f := { f with cutoff := v }) hsr, completeFilt_quiet]
  · rw [hres, reconfigureFilt_unset (f := { f with resonance := res }) hsr, completeFilt_quiet]
  · rw [hcut, reconfigureFilt_set (f := { f with cutoff := v }) hsr, completeFilt_configure]
  · rw [hres, reconfigureFilt_set (f := { f with resonance := res }) hsr, completeFilt_configure]

/-- The modulation offset in the terms of the statements. -/
theorem modulatedCutoff_params (sr : F64) (x : FiltInput) (f : Filt) :
    modulatedCutoff params sr x f =
      let clamped := F64.clamp
        (F64.add (F64.mul f.envMod x.env) (params.accent x.acc x.env f.envMod f.cutoff))
        (F64.mul (F64.neg (F64.dec 95 2)) f.cutoff) (F64.mul (F64.ofNat 4) f.cutoff)
      let off :=
        if F64.lt params.fmEps (F64.abs f.fmAmount) then
          F64.add clamped (F64.mul (F64.mul (F64.mul f.fmAmount x.fm) (F64.dec 5 1)) f.cutoff)
        else clamped
      F64.clamp (F64.add f.cutoff off) (F64.ofNat 5) (F64.mul (F64.dec 45 2) sr) := by
  simp only [modulatedCutoff, modulationOffset, params_num, clampCutoff_binary64, binary64_add,
    binary64_mul, binary64_dec, binary64_ofNat, binary64_neg, binary64_abs, binary64_lt,
    binary64_clamp]
  rfl

/-- The end of FILT_PROC, its checks passed: what it writes, emits and records. -/
theorem execFiltProc_of_process {wIn wEnv wAcc wFm : Word} {s : State} {sr : F64}
    (hIn : f32Finite wIn = true) (hEnv : f32Finite wEnv = true) (hAcc : f32Finite wAcc = true)
    (hFm : f32Finite wFm = true) (hsr : s.filt.sampleRate = some sr) {u : Filt} {out : F64}
    {raw : List F64}
    (h : filtProcess params sr
        { input := F64.ofF32 wIn, env := F64.ofF32 wEnv, acc := F64.ofF32 wAcc, fm := F64.ofF32 wFm }
        s.filt = { unit := u, sample := out, overflow := anyNonfinite binary64 raw }) :
    exec (.filtProc wIn wEnv wAcc wFm) s = .next
      { s with filt := u
               resp := s.resp ++ [F64.r32 out]
               sticky := stickyAfter raw [out] s.sticky } := by
  change execFiltProcWith params wIn wEnv wAcc wFm s = _
  simp only [execFiltProcWith, withF32_finite hIn, withF32_finite hEnv, withF32_finite hAcc,
    withF32_finite hFm, hsr, withRate_some, params_num, binary64_ofF32, h, complete_stickyAfter]
  rfl

/-- Settles O38: the body of FILT_PROC over binary64; the values are listed in another order for the
record of ERR_OVERFLOW. -/
theorem filtProcFiltersOneSample : Obligations.FiltProcFiltersOneSample := by
  intro wIn wEnv wAcc wFm s sr hIn hEnv hAcc hFm hsr f env clamped off fc rs c hp y out
  have hprocess : filtProcess params sr
        { input := F64.ofF32 wIn, env := env, acc := F64.ofF32 wAcc, fm := F64.ofF32 wFm } s.filt =
      { unit := { f with
          fc := written fc, coefs := { b0 := written c.b0, k := written c.k, g := written c.g },
          hpState := written hp.2,
          y := { y1 := written y.y1, y2 := written y.y2, y3 := written y.y3, y4 := written y.y4 },
          out := written out }
        sample := out
        overflow := anyNonfinite binary64
          ([fc, hp.2, y.y1, y.y2, y.y3, y.y4, out] ++ [c.b0, c.k, c.g]) } := by
    rw [anyNonfinite_append]
    simp only [filtProcess, params_num, modulatedCutoff_params, skewedResonance_binary64,
      settleCoefs_binary64, coefsNonfinite_binary64, settleStages, settle_binary64, binary64_sub,
      binary64_mul, binary64_ofNat]
    rfl
  have horder : ([fc, hp.2, y.y1, y.y2, y.y3, y.y4, out] ++ [c.b0, c.k, c.g]).Perm
      [fc, c.b0, c.k, c.g, hp.2, y.y1, y.y2, y.y3, y.y4, out] :=
    (List.perm_append_comm (l₁ := [hp.2, y.y1, y.y2, y.y3, y.y4, out]) (l₂ := [c.b0, c.k, c.g])).cons fc
  rw [execFiltProc_of_process hIn hEnv hAcc hFm hsr hprocess, stickyAfter_perm horder]

/-! ## TICK (rule R241) -/

/-- Settles O42: with its checks passed, TICK is the four bodies and one completion. -/
theorem tickAdvancesAllFourUnits : Obligations.TickAdvancesAllFourUnits := by
  intro fm s srO srA srM srF hfm hO hA hM hF o a m y
  change execTickWith params fm s = _
  rw [execTickWith, withF32_finite hfm, hO, hA, hM, hF]
  simp only [withRate_some, params_num, binary64_ofF32, complete_eq]
  simp only [List.map_cons, List.map_nil, List.any_cons, List.any_nil, binary64_r32,
    binary64_overflows32, Bool.or_false, ← Bool.or_assoc]
  rfl

end Sys2Proof.Machine

end


/-! ## Rounding to the nearest value of a binary format (rules R7, R9 and R10) -/

section

namespace Sys2Proof

/-! ### The values of a format -/

/-- The value of a magnitude pattern of a format with `f` fraction bits, counted in units of the
format's least positive value. -/
def gridValue (f m : ℕ) : ℕ :=
  if m / 2 ^ f = 0 then m else (2 ^ f + m % 2 ^ f) * 2 ^ (m / 2 ^ f - 1)

/-- Every pattern is a significand `q` behind an exponent `e`, normal unless `e = 0`. -/
theorem pattern_split (f m : ℕ) :
    ∃ e q, m = e * 2 ^ f + q ∧ (e = 0 ∨ 2 ^ f ≤ q) ∧ q < 2 ^ (f + 1) := by
  have hdiv := Nat.div_add_mod' m (2 ^ f)
  have hmod := Nat.mod_lt m (Nat.two_pow_pos f)
  rw [Nat.pow_succ]
  cases hm : m / 2 ^ f with
  | zero => exact ⟨0, m, by simp, .inl rfl, by simp [hm] at hdiv; omega⟩
  | succ e =>
    refine ⟨e, 2 ^ f + m % 2 ^ f, ?_, .inr (Nat.le_add_right _ _), by omega⟩
    rw [hm, Nat.succ_mul] at hdiv
    omega

/-- The pattern of a significand behind an exponent stands for their product, also where the
significand has just carried into the next exponent. -/
theorem gridValue_split {f e q : ℕ} (h : e = 0 ∨ 2 ^ f ≤ q) (hq : q ≤ 2 ^ (f + 1)) :
    gridValue f (e * 2 ^ f + q) = q * 2 ^ e := by
  have hpos := Nat.two_pow_pos f
  have normal : ∀ e r, r < 2 ^ f → gridValue f ((e + 1) * 2 ^ f + r) = (2 ^ f + r) * 2 ^ e := by
    intro e r hr
    have hdiv : ((e + 1) * 2 ^ f + r) / 2 ^ f = e + 1 := by
      rw [Nat.add_comm, Nat.add_mul_div_right _ _ hpos, Nat.div_eq_of_lt hr, Nat.zero_add]
    have hmod : ((e + 1) * 2 ^ f + r) % 2 ^ f = r := by
      rw [Nat.add_comm, Nat.add_mul_mod_self_right, Nat.mod_eq_of_lt hr]
    simp [gridValue, hdiv, hmod]
  rw [Nat.pow_succ] at hq
  rcases Nat.lt_or_ge q (2 ^ f) with hlt | hge
  · obtain rfl : e = 0 := h.resolve_right (Nat.not_le.mpr hlt)
    simp [gridValue, Nat.div_eq_of_lt hlt]
  rcases Nat.lt_or_ge q (2 ^ f * 2) with hlt | hcarry
  · have := normal e (q - 2 ^ f) (by omega)
    rwa [Nat.succ_mul, Nat.add_assoc, Nat.add_sub_cancel' hge] at this
  · obtain rfl : q = 2 ^ f * 2 := by omega
    have := normal (e + 1) 0 hpos
    rw [show e * 2 ^ f + 2 ^ f * 2 = (e + 1 + 1) * 2 ^ f + 0 by ring, this]
    ring

/-- Every value of the format is a significand below `2 ^ (f + 1)` times a power of two. -/
theorem exists_gridValue_eq (f m : ℕ) : ∃ a c, a < 2 ^ (f + 1) ∧ gridValue f m = a * 2 ^ c := by
  obtain ⟨e, q, rfl, hn, hq⟩ := pattern_split f m
  exact ⟨q, e, hq, gridValue_split hn hq.le⟩

/-- Patterns are ordered as their values. -/
theorem gridValue_strictMono (f : ℕ) : StrictMono (gridValue f) := by
  refine strictMono_nat_of_lt_succ fun m => ?_
  obtain ⟨e, q, rfl, hn, hq⟩ := pattern_split f m
  rw [gridValue_split hn hq.le, Nat.add_assoc, gridValue_split (hn.imp id (by omega)) hq]
  exact Nat.mul_lt_mul_of_pos_right (Nat.lt_succ_self q) (Nat.two_pow_pos e)

@[simp] theorem gridValue_zero (f : ℕ) : gridValue f 0 = 0 := by simp [gridValue]

/-- The values of the patterns below the infinity stay below its value. -/
theorem gridValue_lt_of_lt_top {f E m : ℕ} (h : m < (E + 2) * 2 ^ f) :
    gridValue f m + 2 ^ E ≤ 2 ^ (f + 1 + E) := by
  have hpos := Nat.two_pow_pos f
  have htop : E * 2 ^ f + (2 ^ (f + 1) - 1) + 1 = (E + 2) * 2 ^ f := by
    rw [Nat.pow_succ, Nat.add_mul]; omega
  have hle := (gridValue_strictMono f).monotone (show m ≤ E * 2 ^ f + (2 ^ (f + 1) - 1) by omega)
  rw [gridValue_split (.inr (by rw [Nat.pow_succ]; omega)) (by omega), Nat.sub_mul, ← Nat.pow_add] at hle
  have : 2 ^ E ≤ 2 ^ (f + 1 + E) := Nat.pow_le_pow_right (by omega) (by omega)
  omega

/-! ### Rounding a number to such a value -/

/-- The number `V` of units rounds to the significand `q` behind the exponent `e`: what
`roundMag_spec` says of the two. -/
structure RoundsAt (f : ℕ) (V : ℝ) (e q : ℕ) : Prop where
  normal : e = 0 ∨ 2 ^ f ≤ q
  le : q ≤ 2 ^ (f + 1)
  lower : e = 0 ∨ 2 ^ (f + e) ≤ V
  upper : V < 2 ^ (f + 1 + e)
  above : 2 * (q * 2 ^ e) ≤ 2 * V + 2 ^ e
  below : 2 * V ≤ 2 * (q * 2 ^ e) + 2 ^ e
  even : 2 * (q * 2 ^ e) = 2 * V + 2 ^ e ∨ 2 * V = 2 * (q * 2 ^ e) + 2 ^ e → q % 2 = 0

/-- `roundMag` rounds the exact quotient, in units of the least positive value. -/
theorem roundMag_roundsAt (f u top p : ℕ) {d : ℕ} (hd : d ≠ 0) :
    ∃ e q, roundMag f u top p d = min top (e * 2 ^ f + q) ∧
      RoundsAt f ((p : ℝ) * 2 ^ u / d) e q := by
  by_cases hp : p = 0
  · subst hp
    exact ⟨0, 0, by simp, ⟨.inl rfl, Nat.zero_le _, .inl rfl, by simp, by simp, by simp, fun _ => rfl⟩⟩
  obtain ⟨e, q, hr, hn, hq, hlo, hup, ha, hb, heven⟩ := roundMag_spec f u top p d hp hd
  refine ⟨e, q, hr, hn, hq, hlo.imp id fun h => ?_, ?_, ?_, ?_, fun h => heven ?_⟩
  all_goals have hd' : (0 : ℝ) < d := by exact_mod_cast Nat.pos_of_ne_zero hd
  · rw [le_div_iff₀ hd', mul_comm]; exact_mod_cast h
  · rw [div_lt_iff₀ hd', mul_comm (2 ^ _)]; exact_mod_cast hup
  all_goals
    have hV : (p : ℝ) * 2 ^ u / d * d = p * 2 ^ u := div_mul_cancel₀ _ hd'.ne'
    generalize (p : ℝ) * 2 ^ u / d = V at *
  · refine le_of_mul_le_mul_right ?_ hd'
    calc 2 * ((q : ℝ) * 2 ^ e) * d = 2 * (q * (d * 2 ^ e)) := by ring
      _ ≤ 2 * (p * 2 ^ u) + d * 2 ^ e := by exact_mod_cast ha
      _ = _ := by rw [← hV]; ring
  · refine le_of_mul_le_mul_right ?_ hd'
    calc 2 * V * d = 2 * (p * 2 ^ u) := by rw [← hV]; ring
      _ ≤ 2 * (q * (d * 2 ^ e)) + d * 2 ^ e := by exact_mod_cast hb
      _ = _ := by ring
  · refine h.imp (fun h => ?_) (fun h => ?_)
    · have := congrArg (· * (d : ℝ)) h
      have : 2 * ((q : ℝ) * (d * 2 ^ e)) = 2 * (p * 2 ^ u) + d * 2 ^ e := by
        rw [← hV]; linear_combination this
      exact_mod_cast this
    · have := congrArg (· * (d : ℝ)) h
      have : 2 * ((p : ℝ) * 2 ^ u) = 2 * (q * (d * 2 ^ e)) + d * 2 ^ e := by
        rw [← hV]; linear_combination this
      exact_mod_cast this

namespace RoundsAt

variable {f e q : ℕ} {V : ℝ}

theorem dist_le (h : RoundsAt f V e q) : |(q : ℝ) * 2 ^ e - V| ≤ 2 ^ e / 2 := by
  rw [abs_le]
  constructor <;> linarith [h.above, h.below]

theorem even_of_dist_eq (h : RoundsAt f V e q) (hd : |(q : ℝ) * 2 ^ e - V| = 2 ^ e / 2) :
    q % 2 = 0 := by
  rcases abs_eq_abs.mp (hd.trans (abs_of_nonneg (by positivity)).symm) with hd | hd
  · exact h.even (.inl (by linarith))
  · exact h.even (.inr (by linarith))

/-- A value on a grid no finer than the result's unit is half a unit away, or the result itself. -/
theorem half_le_dist (h : RoundsAt f V e q) {m : ℕ} (hm : m ≠ q) :
    (2 : ℝ) ^ e / 2 ≤ |(m : ℝ) * 2 ^ e - V| := by
  have hU : (0 : ℝ) < 2 ^ e := by positivity
  rcases Nat.lt_or_gt_of_ne hm with hlt | hgt
  · have hm' : (m : ℝ) + 1 ≤ q := by exact_mod_cast hlt
    have := mul_le_mul_of_nonneg_right hm' hU.le
    exact le_abs.mpr (.inr (by linarith [h.above]))
  · have hm' : (q : ℝ) + 1 ≤ m := by exact_mod_cast hgt
    have := mul_le_mul_of_nonneg_right hm' hU.le
    exact le_abs.mpr (.inl (by linarith [h.below]))

/-- A value on a finer grid lies below the binade of `V`, so it is further away. -/
theorem dist_lt_of_finer (h : RoundsAt f V e q) {a c : ℕ} (ha : a < 2 ^ (f + 1)) (hc : c < e) :
    |(q : ℝ) * 2 ^ e - V| < |(a : ℝ) * 2 ^ c - V| := by
  have hU : (0 : ℝ) < 2 ^ e := by positivity
  have hbin : (2 : ℝ) ^ f * 2 ^ e ≤ V := by
    rw [← pow_add]; exact h.lower.resolve_left (by omega)
  have hM : (a : ℝ) * 2 ^ c < 2 ^ f * 2 ^ e := by
    have : a * 2 ^ c < 2 ^ f * 2 ^ e := by
      calc a * 2 ^ c < 2 ^ (f + 1) * 2 ^ c := Nat.mul_lt_mul_of_pos_right ha (Nat.two_pow_pos c)
        _ = 2 ^ (f + 1 + c) := (Nat.pow_add _ _ _).symm
        _ ≤ 2 ^ (f + e) := Nat.pow_le_pow_right (by omega) (by omega)
        _ = _ := Nat.pow_add _ _ _
    exact_mod_cast this
  have hdist : V - 2 ^ f * 2 ^ e < |(a : ℝ) * 2 ^ c - V| := lt_abs.mpr (.inr (by linarith))
  refine lt_of_le_of_lt ?_ hdist
  rcases Nat.eq_or_lt_of_le (h.normal.resolve_left (by omega)) with hq | hq
  · have hq' : (q : ℝ) = 2 ^ f := by exact_mod_cast hq.symm
    rw [hq', abs_sub_comm, abs_of_nonneg (by linarith)]
  · have hq' : (2 : ℝ) ^ f + 1 ≤ q := by exact_mod_cast hq
    have := mul_le_mul_of_nonneg_right hq' hU.le
    exact h.dist_le.trans (by linarith [h.above])

/-- No value of the format is nearer, and where one is as near the significand is even. -/
theorem nearest (h : RoundsAt f V e q) {a c : ℕ} (ha : a < 2 ^ (f + 1)) :
    |(q : ℝ) * 2 ^ e - V| ≤ |(a : ℝ) * 2 ^ c - V| ∧
      (|(q : ℝ) * 2 ^ e - V| = |(a : ℝ) * 2 ^ c - V| → (a : ℝ) * 2 ^ c ≠ q * 2 ^ e → q % 2 = 0) := by
  rcases Nat.lt_or_ge c e with hc | hc
  · have hlt := h.dist_lt_of_finer ha hc
    exact ⟨hlt.le, fun heq => absurd heq hlt.ne⟩
  have hM : (a : ℝ) * 2 ^ c = (a * 2 ^ (c - e) : ℕ) * 2 ^ e := by
    push_cast
    rw [mul_assoc, ← pow_add, Nat.sub_add_cancel hc]
  rw [hM]
  by_cases hm : a * 2 ^ (c - e) = q
  · rw [hm]; exact ⟨le_rfl, fun _ hne => absurd rfl hne⟩
  · have hfar := h.half_le_dist hm
    exact ⟨h.dist_le.trans hfar, fun heq _ => h.even_of_dist_eq (le_antisymm h.dist_le (heq ▸ hfar))⟩

/-- The same against the values of either sign. -/
theorem nearest_signed (h : RoundsAt f V e q) (hV : 0 ≤ V) {a c : ℕ} (ha : a < 2 ^ (f + 1)) {z : ℝ}
    (hz : z = a * 2 ^ c ∨ z = -(a * 2 ^ c)) :
    |(q : ℝ) * 2 ^ e - V| ≤ |z - V| ∧
      (|(q : ℝ) * 2 ^ e - V| = |z - V| → z ≠ q * 2 ^ e → q % 2 = 0) := by
  rcases hz with rfl | rfl
  · exact h.nearest ha
  obtain ⟨h0, h0even⟩ := h.nearest (a := 0) (c := 0) (Nat.two_pow_pos _)
  have hM : 0 ≤ (a : ℝ) * 2 ^ c := by positivity
  have hzero : |((0 : ℕ) : ℝ) * 2 ^ 0 - V| = V := by simp [abs_of_nonneg hV]
  have hneg : |-((a : ℝ) * 2 ^ c) - V| = a * 2 ^ c + V := by
    rw [abs_of_nonpos (by linarith)]; ring
  rw [hzero] at h0 h0even
  rw [hneg]
  refine ⟨h0.trans (by linarith), fun heq hne => h0even (by linarith) fun h0' => hne ?_⟩
  have : (a : ℝ) * 2 ^ c = 0 := by linarith
  rw [this, neg_zero, ← h0']
  simp

/-- A value of the format rounds to itself. -/
theorem exact (h : RoundsAt f V e q) {a c : ℕ} (ha : a < 2 ^ (f + 1)) (hV : V = a * 2 ^ c) :
    (q : ℝ) * 2 ^ e = V := by
  have := (h.nearest (c := c) ha).1
  rw [← hV, sub_self, abs_zero] at this
  exact sub_eq_zero.mp (abs_eq_zero.mp (le_antisymm this (abs_nonneg _)))

/-- The result is below the infinity exactly where the number is below the overflow threshold, half a
unit under the infinity's value. -/
theorem lt_top_iff (h : RoundsAt f V e q) {E : ℕ} :
    e * 2 ^ f + q < (E + 2) * 2 ^ f ↔ 2 * V + 2 ^ E < 2 ^ (f + 2 + E) := by
  have hU : ∀ n : ℕ, (0 : ℝ) < 2 ^ n := fun n => by positivity
  have hle : ∀ {m n : ℕ}, m ≤ n → (2 : ℝ) ^ m ≤ 2 ^ n := fun h => pow_le_pow_right₀ one_le_two h
  have hq := h.le
  have hsucc : (2 : ℕ) ^ (f + 1) = 2 * 2 ^ f := by rw [Nat.pow_succ]; ring
  have htwo : (2 : ℝ) ^ (f + 2 + E) = 2 * 2 ^ (f + 1 + E) := by
    rw [show f + 2 + E = f + 1 + E + 1 by omega, pow_succ]; ring
  rcases lt_trichotomy e E with he | rfl | he
  · refine iff_of_true ?_ ?_
    · have := Nat.mul_le_mul_right (2 ^ f) (Nat.succ_le_of_lt he)
      have := Nat.two_pow_pos f
      rw [Nat.add_mul]; rw [Nat.succ_mul] at *; omega
    · have h1 := h.upper.trans_le (hle (show f + 1 + e ≤ f + E by omega))
      have h2 : (2 : ℝ) ^ (f + 1 + E) = 2 * 2 ^ (f + E) := by
        rw [show f + 1 + E = f + E + 1 by omega, pow_succ]; ring
      linarith [hle (show E ≤ f + E by omega), hU E]
  · have hpow : (2 : ℝ) ^ (f + 1 + e) = 2 ^ (f + 1) * 2 ^ e := pow_add _ _ _
    rw [htwo, hpow]
    constructor
    · intro hlt
      have hq1 : q + 1 ≤ 2 ^ (f + 1) := by rw [Nat.add_mul] at hlt; omega
      have hq1' : ((q : ℝ) + 1) * 2 ^ e ≤ 2 ^ (f + 1) * 2 ^ e :=
        mul_le_mul_of_nonneg_right (by exact_mod_cast hq1) (hU e).le
      by_contra hge
      have heven := h.even (.inr (by linarith [h.below, hU e]))
      have hodd : q + 1 = 2 ^ (f + 1) := by
        by_contra hne
        have hq2 : ((q : ℝ) + 2) * 2 ^ e ≤ 2 ^ (f + 1) * 2 ^ e :=
          mul_le_mul_of_nonneg_right (by exact_mod_cast show q + 2 ≤ 2 ^ (f + 1) by omega) (hU e).le
        linarith [h.below, hU e]
      omega
    · intro hlt
      by_contra hge
      have hq' : q = 2 ^ (f + 1) := by rw [Nat.add_mul] at hge; omega
      have habove := h.above
      rw [hq'] at habove
      push_cast at habove
      linarith
  · refine iff_of_false ?_ ?_
    · have := Nat.mul_le_mul_right (2 ^ f) (Nat.succ_le_of_lt he)
      have := h.normal.resolve_left (by omega)
      rw [Nat.add_mul]; rw [Nat.succ_mul] at *; omega
    · have h1 := (hle (show f + 1 + E ≤ f + e by omega)).trans (h.lower.resolve_left (by omega))
      linarith [hU E]

end RoundsAt

/-- A value of the format has its own pattern as its rounding. -/
theorem roundMag_of_gridValue {f u top p d m : ℕ} (hd : d ≠ 0) (hm : m ≤ top)
    (h : p * 2 ^ u = gridValue f m * d) : roundMag f u top p d = m := by
  obtain ⟨e, q, hr, hat⟩ := roundMag_roundsAt f u top p hd
  obtain ⟨a, c, ha, hac⟩ := exists_gridValue_eq f m
  have hV : (p : ℝ) * 2 ^ u / d = a * 2 ^ c := by
    rw [div_eq_iff (by exact_mod_cast hd)]
    rw [hac] at h
    exact_mod_cast h
  have hval : q * 2 ^ e = gridValue f m := by
    have := (hat.exact ha hV).trans hV
    rw [hac]
    exact_mod_cast this
  have : e * 2 ^ f + q = m :=
    (gridValue_strictMono f).injective ((gridValue_split hat.normal hat.le).trans hval)
  rw [hr, this, Nat.min_eq_right hm]

end Sys2Proof

end


/-! ## binary64 values and their rounding (rules R7 and R10) -/

section

namespace Sys2Proof

/-! ### Signs and powers of two -/

/-- The factor a sign bit stands for. -/
def signFactor (s : Bool) : ℤ := if s then -1 else 1

@[simp] theorem signFactor_false : signFactor false = 1 := rfl
@[simp] theorem signFactor_true : signFactor true = -1 := rfl
@[simp] theorem signFactor_not (s : Bool) : signFactor (!s) = -signFactor s := by cases s <;> rfl

/-- The sign of a product or quotient. -/
theorem signFactor_bne (s t : Bool) : signFactor (s != t) = signFactor s * signFactor t := by
  cases s <;> cases t <;> rfl

@[simp] theorem signFactor_mul_self (s : Bool) : signFactor s * signFactor s = 1 := by
  cases s <;> rfl

theorem signFactor_ne_zero (s : Bool) : signFactor s ≠ 0 := by cases s <;> decide

@[simp] theorem abs_signFactor (s : Bool) : |signFactor s| = 1 := by cases s <;> rfl

/-- An integer from its sign and its magnitude. -/
theorem signFactor_natAbs (n : ℤ) : signFactor (decide (n < 0)) * (n.natAbs : ℤ) = n := by
  by_cases h : n < 0
  · simp only [h, decide_true, signFactor_true]; omega
  · simp only [h, decide_false, signFactor_false]; omega

theorem signFactor_natAbs_real (n : ℤ) :
    (signFactor (decide (n < 0)) : ℝ) * (n.natAbs : ℝ) = n := by
  have h := congrArg (Int.cast (R := ℝ)) (signFactor_natAbs n)
  rwa [Int.cast_mul, Int.cast_natCast] at h

theorem two_zpow_pos (k : ℤ) : (0 : ℝ) < 2 ^ k := zpow_pos two_pos k

/-- A power of two split into a natural and an integer power. -/
theorem two_zpow_eq_mul {n : ℕ} {j k : ℤ} (h : j = n + k) : (2 : ℝ) ^ j = 2 ^ n * 2 ^ k := by
  rw [h, zpow_add₀ two_ne_zero, zpow_natCast]

theorem two_pow_eq_mul_zpow {n m : ℕ} {k : ℤ} (h : (n : ℤ) = m + k) :
    (2 : ℝ) ^ n = 2 ^ m * 2 ^ k := by
  rw [← two_zpow_eq_mul h, zpow_natCast]

/-- The two shifts of a scaled significand give the signed power of two. -/
theorem shift_div_shift (m a b : ℕ) :
    ((m <<< (a - b) : ℕ) : ℝ) / ((1 <<< (b - a) : ℕ) : ℝ) = m * 2 ^ ((a : ℤ) - b) := by
  rw [Nat.shiftLeft_eq, Nat.one_shiftLeft]
  push_cast
  rw [mul_div_assoc, ← zpow_natCast, ← zpow_natCast, ← zpow_sub₀ two_ne_zero]
  congr 2
  omega

theorem one_shiftLeft_ne_zero (n : ℕ) : 1 <<< n ≠ 0 := by rw [Nat.one_shiftLeft]; positivity

namespace F64

/-! ### A value as a sign and a magnitude pattern -/

/-- The magnitude pattern, bits 62:0. -/
def mag (x : F64) : ℕ := x.bits.toNat % 2 ^ 63

theorem bits_toNat (x : F64) : x.bits.toNat = (if x.isNeg then 2 ^ 63 else 0) + x.mag := by
  have := x.bits.isLt
  unfold isNeg mag
  split <;> simp_all <;> omega

/-- Equal signs and magnitudes are equal patterns. -/
theorem ext_mag {x y : F64} (hs : x.isNeg = y.isNeg) (hm : x.mag = y.mag) : x = y := by
  have : x.bits = y.bits := BitVec.eq_of_toNat_eq (by rw [bits_toNat, bits_toNat, hs, hm])
  cases x; cases y; simp_all

theorem mag_lt (x : F64) : x.mag < 2 ^ 63 := Nat.mod_lt _ (by decide)

theorem expo_eq (x : F64) : x.expo = x.mag / 2 ^ 52 := by unfold expo mag; omega

theorem frac52_eq (x : F64) : x.frac52 = x.mag % 2 ^ 52 := by unfold frac52 mag; omega

@[simp] theorem pack_mag (s : Bool) {m : ℕ} (h : m < 2 ^ 63) : (pack s m).mag = m := by
  unfold mag
  rw [pack_toNat s h]
  cases s <;> simp <;> omega

/-- The finite values are those whose pattern is below the infinity's. -/
theorem isFinite_iff (x : F64) : x.isFinite = true ↔ x.mag < top64 := by
  have := x.mag_lt
  simp only [isFinite, expo_eq, top64, bne_iff_ne]
  omega

theorem isZero_iff (x : F64) : x.isZero = true ↔ x.mag = 0 := by simp [isZero, mag]

/-- The significand times its unit is the pattern's value. -/
theorem mant_mul_scale (x : F64) : x.mant * 2 ^ (x.scale - 1) = gridValue 52 x.mag := by
  simp only [mant, scale, expo_eq, frac52_eq, gridValue]
  split
  · rename_i h
    rw [Nat.mod_eq_of_lt ((Nat.div_eq_zero_iff_lt (by decide)).mp h)]; simp
  · rfl

theorem mant_lt (x : F64) : x.mant < 2 ^ 53 := by
  have := Nat.mod_lt x.mag (show 0 < 2 ^ 52 by decide)
  simp only [mant, frac52_eq]
  split <;> omega

theorem one_le_scale (x : F64) : 1 ≤ x.scale := by unfold scale; split <;> omega

/-- The number of units `2 ^ -1074` a finite value stands for. -/
def units (x : F64) : ℤ := signFactor x.isNeg * gridValue 52 x.mag

theorem toRat_eq_mant (x : F64) :
    x.toRat = signFactor x.isNeg * x.mant * (2 : ℚ) ^ ((x.scale : ℤ) - 1075) := by
  cases h : x.isNeg <;> simp [toRat, h]

theorem toRat_eq_units (x : F64) : x.toRat = x.units * (2 : ℚ) ^ (-1074 : ℤ) := by
  have hscale : (2 : ℚ) ^ ((x.scale : ℤ) - 1075) = 2 ^ (x.scale - 1) * 2 ^ (-1074 : ℤ) := by
    have := x.one_le_scale
    rw [← zpow_natCast, ← zpow_add₀ two_ne_zero]
    congr 1
    omega
  rw [toRat_eq_mant, hscale, units, ← mant_mul_scale]
  generalize (2 : ℚ) ^ (-1074 : ℤ) = ε
  push_cast
  ring

theorem toRat_real (x : F64) : (x.toRat : ℝ) = x.units * (2 : ℝ) ^ (-1074 : ℤ) := by
  rw [toRat_eq_units, Rat.cast_mul, Rat.cast_intCast, Rat.cast_zpow, Rat.cast_ofNat]

theorem pack_units (s : Bool) {m : ℕ} (h : m < 2 ^ 63) :
    (pack s m).units = signFactor s * gridValue 52 m := by
  rw [units, pack_isNeg s h, pack_mag s h]

/-- A finite value is a significand below `2 ^ 53` times a power of two, of either sign. -/
theorem exists_units_eq (x : F64) :
    ∃ a c : ℕ, a < 2 ^ 53 ∧ ((x.units : ℝ) = a * 2 ^ c ∨ (x.units : ℝ) = -(a * 2 ^ c)) := by
  obtain ⟨a, c, ha, hac⟩ := exists_gridValue_eq 52 x.mag
  refine ⟨a, c, ha, ?_⟩
  rw [units, hac]
  cases x.isNeg
  · left; simp
  · right; simp

end F64

/-! ### Correct rounding -/

/-- The overflow threshold, half a unit under the infinity's value, counted in units `2 ^ k` and
doubled, in the form of `RoundsAt.lt_top_iff`. -/
theorem mul_zpow_lt_iff (V : ℝ) {n m a b : ℕ} {k : ℤ} (hn : (n : ℤ) = a + k) (hm : (m : ℤ) = b + k) :
    V * 2 ^ k < 2 ^ n - 2 ^ m ↔ 2 * V + 2 ^ (b + 1) < 2 ^ (a + 1) := by
  rw [two_pow_eq_mul_zpow hn, two_pow_eq_mul_zpow hm, ← sub_mul,
    mul_lt_mul_iff_left₀ (two_zpow_pos _), pow_succ, pow_succ]
  constructor <;> intro h <;> linarith

theorem below_threshold_iff (V : ℝ) :
    V * 2 ^ (-1074 : ℤ) < 2 ^ 1024 - 2 ^ 970 ↔ 2 * V + 2 ^ 2045 < 2 ^ (52 + 2 + 2045) :=
  mul_zpow_lt_iff V (a := 2098) (b := 2044) (by norm_num) (by norm_num)

namespace RoundsAt

variable {f e q : ℕ} {V : ℝ}

/-- Nearest among the values of either sign, for a number of either sign. -/
theorem nearest_of_sign (h : RoundsAt f V e q) (hV : 0 ≤ V) (s : Bool) {a c : ℕ}
    (ha : a < 2 ^ (f + 1)) {z : ℝ} (hz : z = a * 2 ^ c ∨ z = -(a * 2 ^ c)) :
    |signFactor s * (q * 2 ^ e) - signFactor s * V| ≤ |z - signFactor s * V| ∧
      (|signFactor s * (q * 2 ^ e) - signFactor s * V| = |z - signFactor s * V| →
        z ≠ signFactor s * (q * 2 ^ e) → q % 2 = 0) := by
  cases s with
  | false => simpa using h.nearest_signed hV ha hz
  | true =>
    have hz' : -z = a * 2 ^ c ∨ -z = -(a * 2 ^ c) := by
      rcases hz with rfl | rfl
      · exact .inr rfl
      · exact .inl (neg_neg _)
    have e1 : |-((q : ℝ) * 2 ^ e) - -V| = |(q : ℝ) * 2 ^ e - V| := by
      rw [← abs_neg]; congr 1; ring
    have e2 : |z - -V| = |-z - V| := by rw [← abs_neg]; congr 1; ring
    simp only [signFactor_true, Int.cast_neg, Int.cast_one, neg_mul, one_mul]
    rw [e1, e2]
    obtain ⟨hle, heven⟩ := h.nearest_signed hV ha hz'
    exact ⟨hle, fun heq hne => heven heq fun hz => hne (by linarith)⟩

/-- The same with the unit multiplied in. -/
theorem nearest_scaled (h : RoundsAt f V e q) (hV : 0 ≤ V) (s : Bool) {ε : ℝ} (hε : 0 < ε) {a c : ℕ}
    (ha : a < 2 ^ (f + 1)) {z : ℝ} (hz : z = a * 2 ^ c ∨ z = -(a * 2 ^ c)) :
    |signFactor s * (q * 2 ^ e) * ε - signFactor s * V * ε| ≤ |z * ε - signFactor s * V * ε| ∧
      (|signFactor s * (q * 2 ^ e) * ε - signFactor s * V * ε| = |z * ε - signFactor s * V * ε| →
        z * ε ≠ signFactor s * (q * 2 ^ e) * ε → q % 2 = 0) := by
  obtain ⟨hle, htie⟩ := h.nearest_of_sign hV s ha hz
  rw [← sub_mul, ← sub_mul, abs_mul, abs_mul, abs_of_pos hε]
  exact ⟨mul_le_mul_of_nonneg_right hle hε.le, fun heq hne =>
    htie (mul_right_cancel₀ hε.ne' heq) fun hz => hne (by rw [hz])⟩

/-- A number past the threshold is not zero. -/
theorem pos_of_top_le (h : RoundsAt f V e q) (hV : 0 ≤ V) {E : ℕ}
    (hge : ¬ e * 2 ^ f + q < (E + 2) * 2 ^ f) : 0 < V := by
  refine lt_of_le_of_ne hV fun h0 => hge (h.lt_top_iff.mpr ?_)
  rw [← h0, mul_zero, zero_add]
  exact pow_lt_pow_right₀ one_lt_two (by omega)

end RoundsAt

/-- The magnitude and the sign of a number of units. -/
theorem abs_signed_units (s : Bool) {V ε : ℝ} (hV : 0 ≤ V) (hε : 0 < ε) :
    |signFactor s * V * ε| = V * ε := by
  rw [abs_mul, abs_mul, ← Int.cast_abs, abs_signFactor, abs_of_nonneg hV, abs_of_pos hε, Int.cast_one,
    one_mul]

theorem signed_units_neg_iff (s : Bool) {V ε : ℝ} (hV : 0 < V) (hε : 0 < ε) :
    signFactor s * V * ε < 0 ↔ s = true := by
  have hpos := mul_pos hV hε
  cases s <;> simp <;> linarith

namespace Machine

open F64

/-- The pattern found for `V` units is the correct rounding, for either sign. -/
theorem rounded_pack {e q : ℕ} {V : ℝ} (h : RoundsAt 52 V e q) (hV : 0 ≤ V) (s : Bool) {v : ℝ}
    (hv : v = signFactor s * V * 2 ^ (-1074 : ℤ)) :
    Rounded v (pack s (min top64 (e * 2 ^ 52 + q))) := by
  have hε := two_zpow_pos (-1074)
  have htop : e * 2 ^ 52 + q < top64 ↔ |v| < 2 ^ 1024 - 2 ^ 970 := by
    rw [hv, abs_signed_units s hV hε, below_threshold_iff, ← h.lt_top_iff, top64]
  unfold Rounded
  split
  · rename_i hlt
    have hlt := htop.mpr hlt
    have hm : e * 2 ^ 52 + q < 2 ^ 63 := hlt.trans (by decide)
    rw [Nat.min_eq_right hlt.le]
    refine ⟨pack_isFinite s hlt, fun y _ => ?_⟩
    have hx : ((pack s (e * 2 ^ 52 + q)).toRat : ℝ) =
        signFactor s * (q * 2 ^ e) * 2 ^ (-1074 : ℤ) := by
      rw [toRat_real, pack_units s hm, gridValue_split h.normal h.le]; push_cast; rfl
    have heven : (pack s (e * 2 ^ 52 + q)).bits.toNat % 2 = q % 2 := by
      rw [pack_toNat s hm]; cases s <;> simp <;> omega
    obtain ⟨a, c, ha, hz⟩ := y.exists_units_eq
    have hnear := h.nearest_scaled hV s hε ha hz
    rw [← hx, ← toRat_real, ← hv, ← heven, Ne, Rat.cast_inj] at hnear
    exact hnear
  · rename_i hge
    have hge := mt htop.mp hge
    rw [Nat.min_eq_left (not_lt.mp hge), F64.inf]
    congr 1
    rw [Bool.eq_iff_iff, decide_eq_true_iff, hv,
      signed_units_neg_iff s (h.pos_of_top_le hV (E := 2045) hge) hε]

/-- `round` is correct rounding of the exact quotient. -/
theorem rounded_round (s : Bool) (p : ℕ) {d : ℕ} (hd : d ≠ 0) {v : ℝ}
    (hv : v = signFactor s * (p / d)) : Rounded v (F64.round s p d) := by
  obtain ⟨e, q, hr, hat⟩ := roundMag_roundsAt 52 1074 top64 p hd
  rw [F64.round, hr]
  refine rounded_pack hat (by positivity) s ?_
  have hunit : (2 : ℝ) ^ 1074 * 2 ^ (-1074 : ℤ) = 1 := by
    rw [← two_pow_eq_mul_zpow (n := 0) (by norm_num), pow_zero]
  calc v = signFactor s * (p / d) * (2 ^ 1074 * 2 ^ (-1074 : ℤ)) := by rw [hunit, mul_one, hv]
    _ = _ := by
      generalize (2 : ℝ) ^ 1074 = t
      generalize (2 : ℝ) ^ (-1074 : ℤ) = ε
      ring

/-- `roundScaled` is correct rounding of the scaled significand. -/
theorem rounded_roundScaled (s : Bool) (m a b : ℕ) {v : ℝ}
    (hv : v = signFactor s * (m * 2 ^ ((a : ℤ) - b))) : Rounded v (roundScaled s m a b) :=
  rounded_round s _ (one_shiftLeft_ne_zero _) (by rw [hv, shift_div_shift])

/-- A zero of either sign is the rounding of 0. -/
theorem rounded_zero (s : Bool) : Rounded 0 (pack s 0) := by
  have := rounded_round s 0 one_ne_zero (v := 0) (by simp)
  rwa [F64.round, roundMag_zero] at this

/-! ### The four operations, literals and integers -/

theorem toRat_neg (x : F64) : (F64.neg x).toRat = -x.toRat := by
  have h : F64.neg x = pack (!x.isNeg) x.mag := rfl
  rw [toRat_eq_units, toRat_eq_units, h, pack_units _ x.mag_lt, units]
  simp

@[simp] theorem isFinite_neg (x : F64) : (F64.neg x).isFinite = x.isFinite := by
  have h : F64.neg x = pack (!x.isNeg) x.mag := rfl
  rw [Bool.eq_iff_iff, isFinite_iff, isFinite_iff, h, pack_mag _ x.mag_lt]

theorem signedMant_eq (x : F64) (k : ℕ) :
    x.signedMant k = signFactor x.isNeg * (x.mant * 2 ^ k) := by
  cases h : x.isNeg <;> simp [signedMant, h, Nat.shiftLeft_eq]

/-- A value in the unit of a scale `e` not above its own. -/
theorem toRat_eq_signedMant (x : F64) {e : ℕ} (he : e ≤ x.scale) :
    (x.toRat : ℝ) = x.signedMant (x.scale - e) * (2 : ℝ) ^ ((e : ℤ) - 1075) := by
  have hscale : (2 : ℝ) ^ ((x.scale : ℤ) - 1075) = 2 ^ (x.scale - e) * 2 ^ ((e : ℤ) - 1075) :=
    two_zpow_eq_mul (by omega)
  rw [toRat_eq_mant, signedMant_eq]
  push_cast
  rw [hscale]
  ring

theorem rounded_add {x y : F64} (hx : x.isFinite = true) (hy : y.isFinite = true) :
    Rounded ((x.toRat : ℝ) + y.toRat) (F64.add x y) := by
  rw [toRat_eq_signedMant x (Nat.min_le_left x.scale y.scale),
    toRat_eq_signedMant y (Nat.min_le_right x.scale y.scale), ← add_mul, ← Int.cast_add]
  simp only [F64.add, not_isNaN_of_isFinite hx, not_isNaN_of_isFinite hy, hx, hy, Bool.or_false,
    Bool.and_self, if_true, Bool.false_eq_true, if_false]
  generalize x.signedMant (x.scale - min x.scale y.scale) +
    y.signedMant (y.scale - min x.scale y.scale) = n
  split
  · rename_i hn
    rw [hn, Int.cast_zero, zero_mul]
    exact rounded_zero _
  · refine rounded_roundScaled _ _ _ _ ?_
    rw [← mul_assoc, signFactor_natAbs_real]
    rfl

theorem rounded_sub {x y : F64} (hx : x.isFinite = true) (hy : y.isFinite = true) :
    Rounded ((x.toRat : ℝ) - y.toRat) (F64.sub x y) := by
  have := rounded_add hx (y := F64.neg y) (by rw [isFinite_neg, hy])
  rwa [toRat_neg, Rat.cast_neg, ← sub_eq_add_neg] at this

theorem toRat_real_mant (x : F64) :
    (x.toRat : ℝ) = signFactor x.isNeg * (x.mant * 2 ^ ((x.scale : ℤ) - 1075)) := by
  rw [toRat_eq_mant]; push_cast; ring

theorem rounded_mul {x y : F64} (hx : x.isFinite = true) (hy : y.isFinite = true) :
    Rounded ((x.toRat : ℝ) * y.toRat) (F64.mul x y) := by
  simp only [F64.mul, not_isNaN_of_isFinite hx, not_isNaN_of_isFinite hy, hx, hy, Bool.or_false,
    Bool.and_self, if_true, Bool.false_eq_true, if_false]
  refine rounded_roundScaled _ _ _ _ ?_
  have hscale : (2 : ℝ) ^ (((x.scale + y.scale : ℕ) : ℤ) - (2150 : ℕ)) =
      2 ^ ((x.scale : ℤ) - 1075) * 2 ^ ((y.scale : ℤ) - 1075) := by
    rw [← zpow_add₀ two_ne_zero]
    congr 1
    push_cast
    ring
  rw [toRat_real_mant, toRat_real_mant, signFactor_bne, hscale]
  push_cast
  ring

theorem mant_ne_zero {x : F64} (h : x.isZero = false) : x.mant ≠ 0 := by
  intro hm
  have hgrid : gridValue 52 x.mag = gridValue 52 0 := by rw [← mant_mul_scale, hm]; simp
  have := (isZero_iff x).mpr ((gridValue_strictMono 52).injective hgrid)
  simp [h] at this

theorem rounded_div {x y : F64} (hx : x.isFinite = true) (hy : y.isFinite = true)
    (hy0 : y.isZero = false) : Rounded ((x.toRat : ℝ) / y.toRat) (F64.div x y) := by
  have hm := mant_ne_zero hy0
  simp only [F64.div, not_isNaN_of_isFinite hx, not_isNaN_of_isFinite hy, hx, hy, hy0, Bool.or_false,
    Bool.and_self, if_true, Bool.false_eq_true, if_false]
  refine rounded_round _ _ (by rw [Nat.shiftLeft_eq]; positivity) ?_
  have hm' : (y.mant : ℝ) ≠ 0 := by exact_mod_cast hm
  have hsign : (signFactor y.isNeg : ℝ) * signFactor y.isNeg = 1 := by
    exact_mod_cast signFactor_mul_self y.isNeg
  have hsign0 : (signFactor y.isNeg : ℝ) ≠ 0 := by exact_mod_cast signFactor_ne_zero _
  have hscale : (2 : ℝ) ^ ((x.scale : ℤ) - 1075) / 2 ^ ((y.scale : ℤ) - 1075) =
      2 ^ (x.scale - y.scale) / 2 ^ (y.scale - x.scale) := by
    rw [← zpow_natCast, ← zpow_natCast, ← zpow_sub₀ two_ne_zero, ← zpow_sub₀ two_ne_zero]
    congr 1
    omega
  rw [toRat_real_mant, toRat_real_mant, signFactor_bne, Nat.shiftLeft_eq, Nat.shiftLeft_eq]
  push_cast
  have hinv : (signFactor y.isNeg : ℝ)⁻¹ = signFactor y.isNeg := inv_eq_of_mul_eq_one_left hsign
  calc _ = signFactor x.isNeg * (signFactor y.isNeg : ℝ)⁻¹ * (x.mant / y.mant) *
        (2 ^ ((x.scale : ℤ) - 1075) / 2 ^ ((y.scale : ℤ) - 1075)) := by
        field_simp
    _ = _ := by rw [hinv, hscale]; field_simp

theorem rounded_dec (n k : ℕ) : Rounded ((n : ℝ) / 10 ^ k) (F64.dec n k) :=
  rounded_round false n (by positivity) (by simp)

theorem rounded_ofNat (n : ℕ) : Rounded (n : ℝ) (F64.ofNat n) :=
  rounded_round false n one_ne_zero (by simp)

/-- Settles O53: every operation rounds its exact result once. -/
theorem arithmeticIsCorrectlyRounded : Obligations.ArithmeticIsCorrectlyRounded :=
  ⟨fun _ _ hx hy => ⟨rounded_add hx hy, rounded_sub hx hy, rounded_mul hx hy, rounded_div hx hy⟩,
    fun n k => ⟨rounded_dec n k, rounded_ofNat n⟩⟩

end Machine

end Sys2Proof

end


/-! ## Comparisons, floor and frac (rules R10, R12 and R13) -/

section

namespace Sys2Proof.Machine

open F64

/-! ### Order -/

/-- A signed pattern's value in units: patterns read as sign and magnitude are ordered as it. -/
theorem signed_gridValue_lt_iff (f : ℕ) (s t : Bool) (m n : ℕ) :
    signFactor s * (gridValue f m : ℤ) < signFactor t * gridValue f n ↔
      signFactor s * (m : ℤ) < signFactor t * n := by
  have hmono := gridValue_strictMono f
  have hlt : ∀ a b, (gridValue f a : ℤ) < gridValue f b ↔ (a : ℤ) < b := fun a b => by
    rw [Int.ofNat_lt, Int.ofNat_lt, hmono.lt_iff_lt]
  have hm := hlt 0 m
  have hn := hlt 0 n
  have hmn := hlt m n
  have hnm := hlt n m
  rw [gridValue_zero] at hm hn
  cases s <;> cases t <;> simp only [signFactor_true, signFactor_false, one_mul, neg_one_mul] <;> omega

theorem orderKey_eq (x : F64) : x.orderKey = signFactor x.isNeg * x.mag := by
  cases h : x.isNeg <;> simp [orderKey, h, mag]

theorem toRat_lt_iff_units (x y : F64) : x.toRat < y.toRat ↔ x.units < y.units := by
  rw [toRat_eq_units, toRat_eq_units, mul_lt_mul_iff_left₀ (by positivity), Int.cast_lt]

theorem toRat_lt_iff (x y : F64) : x.toRat < y.toRat ↔ x.orderKey < y.orderKey := by
  rw [toRat_lt_iff_units, units, units, signed_gridValue_lt_iff, orderKey_eq, orderKey_eq]

theorem lt_iff {x y : F64} (hx : x.isFinite = true) (hy : y.isFinite = true) :
    F64.lt x y = true ↔ x.toRat < y.toRat := by
  rw [toRat_lt_iff]
  simp [F64.lt, not_isNaN_of_isFinite hx, not_isNaN_of_isFinite hy]

theorem ge_iff {x y : F64} (hx : x.isFinite = true) (hy : y.isFinite = true) :
    F64.ge x y = true ↔ y.toRat ≤ x.toRat := by
  rw [← not_lt, toRat_lt_iff]
  simp [F64.ge, not_isNaN_of_isFinite hx, not_isNaN_of_isFinite hy]

theorem lt_eq_false_iff {x y : F64} (hx : x.isFinite = true) (hy : y.isFinite = true) :
    F64.lt x y = false ↔ y.toRat ≤ x.toRat := by
  rw [← not_lt, ← lt_iff hx hy, Bool.not_eq_true]

theorem toRat_max {x y : F64} (hx : x.isFinite = true) (hy : y.isFinite = true) :
    (F64.max x y).toRat = max x.toRat y.toRat := by
  rcases max_cases x y with ⟨h, hlt⟩ | ⟨h, hlt⟩ <;> rw [h]
  · exact (max_eq_left ((lt_eq_false_iff hx hy).mp hlt)).symm
  · exact (max_eq_right ((lt_eq_false_iff hy hx).mp hlt)).symm

theorem toRat_min {x y : F64} (hx : x.isFinite = true) (hy : y.isFinite = true) :
    (F64.min x y).toRat = min x.toRat y.toRat := by
  rcases min_cases x y with ⟨h, hlt⟩ | ⟨h, hlt⟩ <;> rw [h]
  · exact (min_eq_left ((lt_eq_false_iff hy hx).mp hlt)).symm
  · exact (min_eq_right ((lt_eq_false_iff hx hy).mp hlt)).symm

theorem toRat_abs (x : F64) : (F64.abs x).toRat = |x.toRat| := by
  have h : F64.abs x = pack false x.mag := rfl
  rw [toRat_eq_units, toRat_eq_units, h, pack_units _ x.mag_lt, abs_mul, units, ← Int.cast_abs,
    abs_mul, abs_signFactor, abs_of_pos (show (0 : ℚ) < 2 ^ (-1074 : ℤ) by positivity)]
  simp

@[simp] theorem toRat_pack_zero (s : Bool) : (pack s 0).toRat = 0 := by
  rw [toRat_eq_units, pack_units s (by decide)]; simp

@[simp] theorem toRat_zero : F64.zero.toRat = 0 := toRat_pack_zero false

@[simp] theorem toRat_one : F64.one.toRat = 1 := by
  have hneg : F64.one.isNeg = false := by decide
  have hmant : F64.one.mant = 2 ^ 52 := by decide
  have hscale : F64.one.scale = 1023 := by decide
  rw [toRat_eq_mant, hneg, hmant, hscale]
  norm_num

/-! ### Exact results -/

theorem num_div_den (x : F64) : (x.num : ℝ) / x.den = x.mant * 2 ^ ((x.scale : ℤ) - 1075) :=
  shift_div_shift x.mant x.scale 1075

theorem shiftLeft_sub_of_le {m a b : ℕ} (h : a ≤ b) : m <<< (a - b) = m := by
  rw [Nat.sub_eq_zero_of_le h, Nat.shiftLeft_zero]

theorem num_eq_mant {x : F64} (h : x.scale ≤ 1075) : x.num = x.mant := shiftLeft_sub_of_le h

theorem den_eq_one {x : F64} (h : 1075 ≤ x.scale) : x.den = 1 := shiftLeft_sub_of_le h

theorem den_eq_two_pow (x : F64) : x.den = 2 ^ (1075 - x.scale) := Nat.one_shiftLeft _

/-- A value from its sign and the quotient that `exp`, `tanh` and `pow` compute with. -/
theorem toRat_real_num_den (x : F64) :
    (x.toRat : ℝ) = signFactor x.isNeg * ((x.num : ℝ) / x.den) := by
  rw [toRat_real_mant, num_div_den]

theorem abs_toRat_eq (x : F64) : |x.toRat| = (x.num : ℚ) / x.den := by
  apply Rat.cast_injective (α := ℝ)
  rw [Rat.cast_abs, toRat_real_num_den, abs_mul, ← Int.cast_abs, abs_signFactor,
    abs_of_nonneg (by positivity), Int.cast_one, one_mul, Rat.cast_div, Rat.cast_natCast,
    Rat.cast_natCast]

theorem two_pow_lt_threshold {n : ℕ} (hn : n ≤ 1023) : (2 : ℝ) ^ n < 2 ^ 1024 - 2 ^ 970 := by
  have h1 : (2 : ℝ) ^ n ≤ 2 ^ 1023 := pow_le_pow_right₀ one_le_two hn
  have h2 : (2 : ℝ) ^ 970 < 2 ^ 1023 := pow_lt_pow_right₀ one_lt_two (by norm_num)
  rw [pow_succ _ 1023]
  generalize (2 : ℝ) ^ 1023 = t at *
  generalize (2 : ℝ) ^ 970 = r at *
  linarith

/-- A finite value lies below the overflow threshold. -/
theorem abs_toRat_lt {x : F64} (h : x.isFinite = true) :
    |(x.toRat : ℝ)| < 2 ^ 1024 - 2 ^ 970 := by
  have hgrid := gridValue_lt_of_lt_top (f := 52) (E := 2045) ((isFinite_iff x).mp h)
  have habs : |(x.toRat : ℝ)| = gridValue 52 x.mag * 2 ^ (-1074 : ℤ) := by
    rw [toRat_real, units, Int.cast_mul, Int.cast_natCast,
      abs_signed_units _ (Nat.cast_nonneg _) (two_zpow_pos _)]
  rw [habs, below_threshold_iff]
  have hgrid' : (gridValue 52 x.mag : ℝ) + 2 ^ 2045 ≤ 2 ^ (52 + 1 + 2045) := by exact_mod_cast hgrid
  have hpow : (2 : ℝ) ^ (52 + 2 + 2045) = 2 * 2 ^ (52 + 1 + 2045) := by
    rw [show 52 + 2 + 2045 = 52 + 1 + 2045 + 1 by rfl, pow_succ, mul_comm]
  have hpos : (0 : ℝ) < 2 ^ 2045 := by positivity
  rw [hpow]
  generalize (2 : ℝ) ^ (52 + 1 + 2045) = t at *
  generalize (2 : ℝ) ^ 2045 = r at *
  linarith

/-- Below the threshold a rounded result is finite and no finite value is nearer. -/
theorem Rounded.of_lt {v : ℝ} {x : F64} (h : Rounded v x) (hv : |v| < 2 ^ 1024 - 2 ^ 970) :
    x.isFinite = true ∧ ∀ y : F64, y.isFinite = true → |(x.toRat : ℝ) - v| ≤ |(y.toRat : ℝ) - v| := by
  unfold Rounded at h
  rw [if_pos hv] at h
  exact ⟨h.1, fun y hy => (h.2 y hy).1⟩

/-- What is already a finite value is kept by rounding. -/
theorem Rounded.toRat_eq {v : ℝ} {x y : F64} (h : Rounded v x) (hy : y.isFinite = true)
    (hv : v = y.toRat) : x.isFinite = true ∧ (x.toRat : ℝ) = v := by
  obtain ⟨hx, hnear⟩ := h.of_lt (hv ▸ abs_toRat_lt hy)
  have := hnear y hy
  rw [← hv, sub_self, abs_zero] at this
  exact ⟨hx, sub_eq_zero.mp (abs_eq_zero.mp (le_antisymm this (abs_nonneg _)))⟩

/-- Every significand below `2 ^ 53` times a power of two, below the threshold, is a finite value. -/
theorem exists_toRat_eq (s : Bool) {a : ℕ} (c : ℕ) (ha : a < 2 ^ 53) {v : ℝ}
    (hv : v = signFactor s * (a * 2 ^ c) * 2 ^ (-1074 : ℤ)) (hlt : |v| < 2 ^ 1024 - 2 ^ 970) :
    ∃ y : F64, y.isFinite = true ∧ (y.toRat : ℝ) = v := by
  obtain ⟨e, q, -, hat⟩ := roundMag_roundsAt 52 0 top64 (a * 2 ^ c) one_ne_zero
  have hV : ((a * 2 ^ c : ℕ) : ℝ) * 2 ^ 0 / (1 : ℕ) = a * 2 ^ c := by push_cast; ring
  rw [hV] at hat
  have hround := rounded_pack hat (by positivity) s hv
  refine ⟨_, (hround.of_lt hlt).1, ?_⟩
  have htop : e * 2 ^ 52 + q < top64 := by
    rwa [hv, abs_signed_units s (by positivity) (two_zpow_pos _), below_threshold_iff,
      ← hat.lt_top_iff] at hlt
  have hexact := hat.exact ha rfl
  rw [Nat.min_eq_right htop.le, toRat_real, pack_units s (htop.trans (by decide)),
    gridValue_split hat.normal hat.le, hv, ← hexact]
  push_cast
  rfl

/-! ### floor -/

/-- `floorInt` is the integer part towards minus infinity. -/
theorem floorInt_eq (x : F64) : x.floorInt = ⌊x.toRat⌋ := by
  have h : x.toRat =
      ((x.signedMant (x.scale - 1075) : ℤ) : ℚ) / ((1 <<< (1075 - x.scale) : ℕ) : ℚ) := by
    apply Rat.cast_injective (α := ℝ)
    have hshift := shift_div_shift x.mant x.scale 1075
    rw [Nat.shiftLeft_eq] at hshift
    rw [toRat_real_mant, signedMant_eq]
    push_cast at hshift ⊢
    rw [← hshift]
    ring
  rw [h, Rat.floor_intCast_div_natCast]
  rfl

/-- The integer part of a finite value is itself a finite value. -/
theorem exists_toRat_eq_floor {x : F64} (hx : x.isFinite = true) :
    ∃ y : F64, y.isFinite = true ∧ (y.toRat : ℝ) = (⌊x.toRat⌋ : ℤ) := by
  rcases Nat.lt_or_ge x.scale 1075 with hs | hs
  · have hle : ⌊x.toRat⌋.natAbs ≤ x.mant := by
      rw [← floorInt_eq]
      refine (Int.natAbs_ediv_le_natAbs _ _).trans (le_of_eq ?_)
      rw [signedMant_eq, Nat.sub_eq_zero_of_le hs.le]
      cases x.isNeg <;> simp
    have hlt := hle.trans_lt x.mant_lt
    refine exists_toRat_eq (decide (⌊x.toRat⌋ < 0)) 1074 hlt ?_ ?_
    · rw [← mul_assoc, signFactor_natAbs_real, mul_assoc, ← two_pow_eq_mul_zpow (n := 0) (by norm_num),
        pow_zero, mul_one]
    · have h53 : |((⌊x.toRat⌋ : ℤ) : ℝ)| < 2 ^ 53 := by
        rw [← Int.cast_abs, Int.abs_eq_natAbs]
        exact_mod_cast hlt
      exact h53.trans (two_pow_lt_threshold (by norm_num))
  · refine ⟨x, hx, ?_⟩
    have hint : x.toRat = ((signFactor x.isNeg * (x.mant * 2 ^ (x.scale - 1075)) : ℤ) : ℚ) := by
      rw [toRat_eq_mant, show (x.scale : ℤ) - 1075 = ((x.scale - 1075 : ℕ) : ℤ) by omega, zpow_natCast]
      push_cast
      ring
    rw [hint, Int.floor_intCast]
    exact Rat.cast_intCast _

theorem floor_of_finite {x : F64} (hx : x.isFinite = true) :
    (F64.floor x).isFinite = true ∧ (F64.floor x).toRat = (⌊x.toRat⌋ : ℚ) := by
  simp only [F64.floor, hx, if_true, floorInt_eq]
  split
  · rename_i h0
    rw [h0]
    exact ⟨pack_isFinite _ (by decide), by simp⟩
  · obtain ⟨y, hy, hval⟩ := exists_toRat_eq_floor hx
    have hround := rounded_round (decide (⌊x.toRat⌋ < 0)) ⌊x.toRat⌋.natAbs one_ne_zero
      (v := (⌊x.toRat⌋ : ℤ)) (by rw [Nat.cast_one, div_one, signFactor_natAbs_real])
    obtain ⟨hfin, heq⟩ := hround.toRat_eq hy hval.symm
    exact ⟨hfin, by exact_mod_cast heq⟩

/-- Settles O55. -/
theorem comparisonsAreExact : Obligations.ComparisonsAreExact := fun x _ hx hy =>
  ⟨lt_iff hx hy, ge_iff hx hy, toRat_max hx hy, toRat_min hx hy, toRat_neg x, toRat_abs x,
    (floor_of_finite hx).1, (floor_of_finite hx).2⟩

/-! ### frac -/

/-- The fractional part of a value that is not negative is itself a finite value. -/
theorem exists_toRat_eq_fract {x : F64} (h0 : 0 ≤ x.toRat) :
    ∃ y : F64, y.isFinite = true ∧ (y.toRat : ℝ) = (Int.fract x.toRat : ℚ) := by
  have hlt : |((Int.fract x.toRat : ℚ) : ℝ)| < 2 ^ 1024 - 2 ^ 970 := by
    rw [abs_of_nonneg (by exact_mod_cast Int.fract_nonneg _)]
    have h1 : ((Int.fract x.toRat : ℚ) : ℝ) < 2 ^ 0 := by
      rw [pow_zero]; exact_mod_cast Int.fract_lt_one _
    exact h1.trans (two_pow_lt_threshold (by norm_num))
  have hfract : Int.fract x.toRat = ((x.num % x.den : ℕ) : ℚ) / x.den := by
    rw [← abs_of_nonneg h0, abs_toRat_eq]
    exact Int.fract_div_natCast_eq_div_natCast_mod
  refine exists_toRat_eq false (1074 - (1075 - x.scale)) (a := x.num % x.den) ?_ ?_ hlt
  · rcases Nat.lt_or_ge x.scale 1075 with hs | hs
    · refine (Nat.mod_le _ _).trans_lt ?_
      rw [num_eq_mant hs.le]
      exact x.mant_lt
    · rw [den_eq_one hs, Nat.mod_one]
      exact Nat.two_pow_pos 53
  · have hden : ((x.den : ℕ) : ℝ)⁻¹ = 2 ^ (1074 - (1075 - x.scale)) * 2 ^ (-1074 : ℤ) := by
      have := x.one_le_scale
      rw [den_eq_two_pow, Nat.cast_pow, Nat.cast_ofNat, ← zpow_natCast, ← zpow_natCast,
        ← zpow_neg, ← zpow_add₀ two_ne_zero]
      congr 1
      omega
    rw [hfract, Rat.cast_div, Rat.cast_natCast, Rat.cast_natCast, div_eq_mul_inv, hden,
      signFactor_false, Int.cast_one, one_mul, mul_assoc]

theorem toRat_frac {x : F64} (hx : x.isFinite = true) (h0 : 0 ≤ x.toRat) :
    (F64.frac x).isFinite = true ∧ (F64.frac x).toRat = Int.fract x.toRat := by
  obtain ⟨hfloor, hval⟩ := floor_of_finite hx
  obtain ⟨y, hy, hyv⟩ := exists_toRat_eq_fract h0
  obtain ⟨hfin, heq⟩ := (rounded_sub hx hfloor).toRat_eq hy (by
    rw [hyv, hval, ← Rat.cast_sub]; rfl)
  refine ⟨hfin, Rat.cast_injective (α := ℝ) ?_⟩
  rw [F64.frac, heq, hval, ← Rat.cast_sub]
  rfl

theorem zero_le_of_ge_zero {x : F64} (hx : x.isFinite = true) (h : F64.ge x F64.zero = true) :
    0 ≤ x.toRat := by
  have := (ge_iff hx zero_isFinite).mp h
  rwa [toRat_zero] at this

/-- Settles O58: the subtraction is exact, so it is the fractional part. -/
theorem fracOfNonNegativeIsInHalfOpenUnit : Obligations.FracOfNonNegativeIsInHalfOpenUnit := by
  intro x hx hge
  obtain ⟨hfin, hval⟩ := toRat_frac hx (zero_le_of_ge_zero hx hge)
  have h0 : F64.ge (F64.frac x) F64.zero = true := by
    rw [ge_iff hfin zero_isFinite, toRat_zero, hval]; exact Int.fract_nonneg _
  have h1 : F64.lt (F64.frac x) F64.one = true := by
    rw [lt_iff hfin one_isFinite, toRat_one, hval]; exact Int.fract_lt_one _
  simp [inHalfOpenUnit, hfin, h0, h1]

end Sys2Proof.Machine

end


/-! ## The port words (rules R9, R83 and R262) -/

section

namespace Sys2Proof.Machine

open F64

/-! ### binary32 words as a sign and a magnitude pattern -/

/-- The value of a word from its sign bit and its magnitude pattern. -/
theorem wordToRat_eq (w : Word) :
    wordToRat w = signFactor w.msb * gridValue 23 (w.toNat % 2 ^ 31) * (2 : ℚ) ^ (-149 : ℤ) := by
  have hmsb : w.msb = decide (w.toNat / 2 ^ 31 = 1) := by
    have := w.isLt
    rw [BitVec.msb_eq_decide]
    exact decide_eq_decide.mpr (by omega)
  have he : w.toNat / 2 ^ 23 % 2 ^ 8 = w.toNat % 2 ^ 31 / 2 ^ 23 := by omega
  have hm : w.toNat % 2 ^ 23 = w.toNat % 2 ^ 31 % 2 ^ 23 := by omega
  simp only [wordToRat, gridValue, hmsb, he, hm, signFactor]
  generalize w.toNat % 2 ^ 31 = m
  have hsign : ∀ p : Prop, [Decidable p] →
      (((if decide p then -1 else 1 : ℤ) : ℚ) = if p then -1 else 1) := by
    intro p _; by_cases h : p <;> simp [h]
  rw [hsign, mul_assoc]
  congr 1
  split
  · rename_i h0
    rw [Nat.mod_eq_of_lt ((Nat.div_eq_zero_iff_lt (by decide)).mp h0)]
  · rename_i h0
    have hscale : (2 : ℚ) ^ (((m / 2 ^ 23 : ℕ) : ℤ) - 150) =
        2 ^ (m / 2 ^ 23 - 1) * 2 ^ (-149 : ℤ) := by
      rw [← zpow_natCast, ← zpow_add₀ two_ne_zero]
      congr 1
      omega
    rw [hscale]
    push_cast
    ring

theorem wordToRat_real (w : Word) :
    (wordToRat w : ℝ) =
      signFactor w.msb * gridValue 23 (w.toNat % 2 ^ 31) * (2 : ℝ) ^ (-149 : ℤ) := by
  rw [wordToRat_eq]; push_cast; rfl

/-- A word from its sign and its magnitude pattern. -/
def wordOf (s : Bool) (m : ℕ) : Word := BitVec.ofNat 32 ((if s then 2 ^ 31 else 0) + m)

theorem wordOf_toNat (s : Bool) {m : ℕ} (h : m < 2 ^ 31) :
    (wordOf s m).toNat = (if s then 2 ^ 31 else 0) + m := by
  rw [wordOf, BitVec.toNat_ofNat]
  exact Nat.mod_eq_of_lt (by split <;> omega)

theorem wordOf_msb (s : Bool) {m : ℕ} (h : m < 2 ^ 31) : (wordOf s m).msb = s := by
  rw [BitVec.msb_eq_decide, wordOf_toNat s h]
  cases s with
  | false => simpa using h
  | true => simp

theorem wordOf_mag (s : Bool) {m : ℕ} (h : m < 2 ^ 31) : (wordOf s m).toNat % 2 ^ 31 = m := by
  rw [wordOf_toNat s h]
  split <;> omega

theorem wordOf_self (w : Word) : wordOf w.msb (w.toNat % 2 ^ 31) = w := by
  apply BitVec.eq_of_toNat_eq
  rw [wordOf_toNat _ (Nat.mod_lt _ (by decide)), BitVec.msb_eq_decide]
  have := w.isLt
  by_cases h : 2 ^ 31 ≤ w.toNat
  · simp only [h, decide_true, if_true]; omega
  · simp only [h, decide_false, Bool.false_eq_true, if_false]; omega

/-- The finite words are those whose pattern is below the infinity's. -/
theorem f32Finite_iff (w : Word) : f32Finite w = true ↔ w.toNat % 2 ^ 31 < top32 := by
  simp only [f32Finite, top32, bne_iff_ne]
  omega

/-! ### From a word to a register value -/

/-- A binary32 pattern is converted to the value it has. -/
theorem ofF32_eq (w : Word) (h : f32Finite w = true) :
    ∃ m a : ℕ, m < 2 ^ 24 ∧ 1 ≤ a ∧ a ≤ 254 ∧ F64.ofF32 w = roundScaled w.msb m a 150 ∧
      gridValue 23 (w.toNat % 2 ^ 31) = m * 2 ^ (a - 1) := by
  have hmsb : (w.toNat / 2 ^ 31 == 1) = w.msb := by
    have := w.isLt
    rw [BitVec.msb_eq_decide, Bool.eq_iff_iff]
    simp only [beq_iff_eq, decide_eq_true_eq]
    omega
  have he : w.toNat / 2 ^ 23 % 2 ^ 8 = w.toNat % 2 ^ 31 / 2 ^ 23 := by omega
  have hm : w.toNat % 2 ^ 23 = w.toNat % 2 ^ 31 % 2 ^ 23 := by omega
  have hlt := (f32Finite_iff w).mp h
  simp only [F64.ofF32, hmsb, he, hm]
  unfold top32 at hlt
  generalize w.toNat % 2 ^ 31 = n at *
  have hmod := Nat.mod_lt n (show 0 < 2 ^ 23 by decide)
  rw [if_neg (by omega)]
  by_cases h0 : n / 2 ^ 23 = 0
  · exact ⟨n % 2 ^ 23, 1, by omega, le_rfl, by decide, by rw [if_pos h0], by
      rw [gridValue, if_pos h0]; omega⟩
  · exact ⟨2 ^ 23 + n % 2 ^ 23, n / 2 ^ 23, by omega, by omega, by omega, by rw [if_neg h0], by
      rw [gridValue, if_neg h0]⟩

theorem isNeg_round (s : Bool) (p d : ℕ) : (F64.round s p d).isNeg = s :=
  pack_isNeg s ((roundMag_le_top _ _ _ _ _).trans_lt (by decide))

theorem isNeg_roundScaled (s : Bool) (m a b : ℕ) : (roundScaled s m a b).isNeg = s :=
  isNeg_round ..

/-- The conversion is exact, and keeps the sign of a zero. -/
theorem ofF32_exact {w : Word} (h : f32Finite w = true) :
    (F64.ofF32 w).toRat = wordToRat w ∧ (F64.ofF32 w).isNeg = w.msb := by
  obtain ⟨m, a, hm, ha1, ha, heq, hgrid⟩ := ofF32_eq w h
  have hv : ((wordToRat w : ℚ) : ℝ) = signFactor w.msb * (m * 2 ^ ((a : ℤ) - 150)) := by
    have hscale : (2 : ℝ) ^ ((a : ℤ) - 150) = 2 ^ (a - 1) * 2 ^ (-149 : ℤ) :=
      two_zpow_eq_mul (by omega)
    rw [wordToRat_eq, hgrid, hscale]
    push_cast
    ring
  have hfin := F64.ofF32_isFinite h
  have hround := rounded_roundScaled w.msb m a 150 (v := wordToRat w) hv
  rw [← heq] at hround
  have hlt : |((wordToRat w : ℚ) : ℝ)| < 2 ^ 1024 - 2 ^ 970 := by
    by_contra hge
    unfold Rounded at hround
    rw [if_neg hge] at hround
    rw [hround, F64.isFinite_iff, F64.inf, F64.pack_mag _ (by decide)] at hfin
    exact absurd hfin (lt_irrefl _)
  obtain ⟨y, hy, hyv⟩ := exists_toRat_eq w.msb (a + 924) (a := m) (by omega) (v := wordToRat w) (by
    rw [hv, mul_assoc, mul_assoc, two_zpow_eq_mul (n := a + 924) (k := -1074) (by omega)]) hlt
  exact ⟨Rat.cast_injective (hround.toRat_eq hy hyv.symm).2, by rw [heq, isNeg_roundScaled]⟩

/-! ### From a register value to a word -/

/-- `r32` of a value that is not a NaN, from its sign and its magnitude. -/
theorem r32_eq {v : F64} (h : v.isNaN = false) :
    F64.r32 v = wordOf v.isNeg
      (if v.isFinite then roundMag 23 149 top32 v.num v.den else top32) := by
  rw [F64.r32, h]; rfl

theorem r32_of_finite {v : F64} (h : v.isFinite = true) :
    F64.r32 v = wordOf v.isNeg (roundMag 23 149 top32 v.num v.den) := by
  rw [r32_eq (not_isNaN_of_isFinite h), if_pos h]

theorem den_ne_zero (v : F64) : v.den ≠ 0 := one_shiftLeft_ne_zero _

/-- Settles O56: the word's pattern is recovered as the one pattern of its value. -/
theorem portOperandsConvertExactly : Obligations.PortOperandsConvertExactly := by
  intro w hw
  obtain ⟨hval, hneg⟩ := ofF32_exact hw
  refine ⟨hval, ?_⟩
  have hmag : w.toNat % 2 ^ 31 < top32 := (f32Finite_iff w).mp hw
  have hquot : (F64.ofF32 w).num * 2 ^ 149 = gridValue 23 (w.toNat % 2 ^ 31) * (F64.ofF32 w).den := by
    have habs := congrArg (Rat.cast (K := ℝ)) (abs_toRat_eq (F64.ofF32 w))
    have hden : ((F64.ofF32 w).den : ℝ) ≠ 0 := by exact_mod_cast den_ne_zero _
    have hunit : (2 : ℝ) ^ (-149 : ℤ) * 2 ^ 149 = 1 := by
      rw [mul_comm, ← two_pow_eq_mul_zpow (n := 0) (by norm_num), pow_zero]
    rw [Rat.cast_abs, hval, wordToRat_real, abs_signed_units _ (Nat.cast_nonneg _) (two_zpow_pos _),
      Rat.cast_div, Rat.cast_natCast, Rat.cast_natCast, eq_div_iff hden] at habs
    have : ((F64.ofF32 w).num : ℝ) * 2 ^ 149 =
        gridValue 23 (w.toNat % 2 ^ 31) * (F64.ofF32 w).den := by
      rw [← habs]
      linear_combination
        (gridValue 23 (w.toNat % 2 ^ 31) : ℝ) * (F64.ofF32 w).den * hunit
    exact_mod_cast this
  rw [r32_of_finite (F64.ofF32_isFinite hw), hneg,
    roundMag_of_gridValue (den_ne_zero _) hmag.le hquot, wordOf_self]

/-- A finite word is a significand below `2 ^ 24` times a power of two, of either sign. -/
theorem exists_wordToRat_eq (w : Word) :
    ∃ a c : ℕ, a < 2 ^ 24 ∧
      ((signFactor w.msb : ℝ) * gridValue 23 (w.toNat % 2 ^ 31) = a * 2 ^ c ∨
        (signFactor w.msb : ℝ) * gridValue 23 (w.toNat % 2 ^ 31) = -(a * 2 ^ c)) := by
  obtain ⟨a, c, ha, hac⟩ := exists_gridValue_eq 23 (w.toNat % 2 ^ 31)
  refine ⟨a, c, ha, ?_⟩
  rw [hac]
  cases w.msb
  · left; simp
  · right; simp

/-- The pattern found for `V` units of binary32 is the correct rounding, for either sign. -/
theorem rounded32_wordOf {e q : ℕ} {V : ℝ} (h : RoundsAt 23 V e q) (hV : 0 ≤ V) (s : Bool) {v : ℚ}
    (hv : (v : ℝ) = signFactor s * V * 2 ^ (-149 : ℤ)) :
    Rounded32 v (wordOf s (min top32 (e * 2 ^ 23 + q))) := by
  have hε := two_zpow_pos (-149)
  have htop : e * 2 ^ 23 + q < top32 ↔ |v| < 2 ^ 128 - 2 ^ 103 := by
    have hcast : |v| < 2 ^ 128 - 2 ^ 103 ↔ |(v : ℝ)| < 2 ^ 128 - 2 ^ 103 := by
      rw [← Rat.cast_lt (K := ℝ)]; push_cast; rfl
    rw [hcast, hv, abs_signed_units s hV hε,
      mul_zpow_lt_iff V (a := 277) (b := 252) (by norm_num) (by norm_num),
      ← h.lt_top_iff (E := 253), top32]
  unfold Rounded32
  split
  · rename_i hlt
    have hlt := htop.mpr hlt
    have hm : e * 2 ^ 23 + q < 2 ^ 31 := hlt.trans (by decide)
    rw [Nat.min_eq_right hlt.le]
    refine ⟨(f32Finite_iff _).mpr (by rwa [wordOf_mag s hm]), fun u _ => ?_⟩
    have hx : (wordToRat (wordOf s (e * 2 ^ 23 + q)) : ℝ) =
        signFactor s * (q * 2 ^ e) * 2 ^ (-149 : ℤ) := by
      rw [wordToRat_real, wordOf_msb s hm, wordOf_mag s hm, gridValue_split h.normal h.le]
      push_cast
      rfl
    have heven : (wordOf s (e * 2 ^ 23 + q)).toNat % 2 = q % 2 := by
      rw [wordOf_toNat s hm]; cases s <;> simp <;> omega
    obtain ⟨a, c, ha, hz⟩ := exists_wordToRat_eq u
    have hnear := h.nearest_scaled hV s hε ha hz
    rw [← hx, ← wordToRat_real, ← hv, ← heven, Ne, Rat.cast_inj] at hnear
    exact_mod_cast hnear
  · rename_i hge
    have hge := mt htop.mp hge
    have hneg : v < 0 ↔ s = true := by
      rw [← Rat.cast_lt (K := ℝ), Rat.cast_zero, hv,
        signed_units_neg_iff s (h.pos_of_top_le hV (E := 253) hge) hε]
    rw [Nat.min_eq_left (not_lt.mp hge)]
    simp only [hneg]
    cases s <;> rfl

/-- Settles O57: one rounding for the finite values, one pattern for each of the others. -/
theorem portResultsAreNearest : Obligations.PortResultsAreNearest := by
  refine fun v => ⟨fun hv => ?_, fun neg hinf => ?_, fun hnan => ?_⟩
  · obtain ⟨e, q, hr, hat⟩ := roundMag_roundsAt 23 149 top32 v.num (den_ne_zero v)
    rw [r32_of_finite hv]
    refine ⟨?_, wordOf_msb _ ((roundMag_le_top _ _ _ _ _).trans_lt (by decide))⟩
    rw [hr]
    refine rounded32_wordOf hat
      (div_nonneg (mul_nonneg (Nat.cast_nonneg _) (by positivity)) (Nat.cast_nonneg _)) v.isNeg ?_
    have hunit : (2 : ℝ) ^ 149 * 2 ^ (-149 : ℤ) = 1 := by
      rw [← two_pow_eq_mul_zpow (n := 0) (by norm_num), pow_zero]
    rw [toRat_real_num_den]
    linear_combination -(signFactor v.isNeg : ℝ) * (v.num / v.den) * hunit
  · subst hinf
    cases neg <;> decide
  · rw [F64.r32, if_pos hnan]

end Sys2Proof.Machine

end


/-! ## The modulation envelope's sample and the glide (rules R118, R127 and R184) -/

section

namespace Sys2Proof.Machine

open F64

/-! ### Rounding keeps the order with a finite value -/

theorem Rounded.toRat_le {v : ℝ} {x y : F64} (h : Rounded v x) (hv : |v| < 2 ^ 1024 - 2 ^ 970)
    (hy : y.isFinite = true) (hvy : v ≤ y.toRat) : x.toRat ≤ y.toRat := by
  have hnear := (h.of_lt hv).2 y hy
  rw [abs_of_nonneg (sub_nonneg.mpr hvy)] at hnear
  exact_mod_cast (sub_le_sub_iff_right v).mp ((le_abs_self _).trans hnear)

theorem Rounded.le_toRat {v : ℝ} {x y : F64} (h : Rounded v x) (hv : |v| < 2 ^ 1024 - 2 ^ 970)
    (hy : y.isFinite = true) (hyv : y.toRat ≤ v) : y.toRat ≤ x.toRat := by
  have hnear := (h.of_lt hv).2 y hy
  rw [abs_of_nonpos (sub_nonpos.mpr hyv)] at hnear
  have := (neg_abs_le ((x.toRat : ℝ) - v)).trans' (neg_le_neg hnear)
  have hle : (y.toRat : ℝ) ≤ x.toRat := by linarith
  exact_mod_cast hle

theorem inUnit_iff (x : F64) :
    inUnit x = true ↔ x.isFinite = true ∧ 0 ≤ x.toRat ∧ x.toRat ≤ 1 := by
  simp only [inUnit, Bool.and_eq_true, and_assoc]
  refine and_congr_right fun hx => ?_
  rw [ge_iff hx zero_isFinite, ge_iff one_isFinite hx, toRat_zero, toRat_one]

/-- The product of two values of `[0, 1]` is one, and not above the first. -/
theorem mul_inUnit {x y : F64} (hx : inUnit x = true) (hy : inUnit y = true) :
    inUnit (F64.mul x y) = true ∧ (F64.mul x y).toRat ≤ x.toRat := by
  rw [inUnit_iff] at hx hy
  obtain ⟨hxf, hx0, hx1⟩ := hx
  obtain ⟨hyf, hy0, hy1⟩ := hy
  have hround := rounded_mul hxf hyf
  have h0 : (0 : ℝ) ≤ x.toRat * y.toRat := by exact_mod_cast mul_nonneg hx0 hy0
  have hle : (x.toRat : ℝ) * y.toRat ≤ x.toRat := by exact_mod_cast mul_le_of_le_one_right hx0 hy1
  have hlt : |(x.toRat : ℝ) * y.toRat| < 2 ^ 1024 - 2 ^ 970 := by
    rw [abs_of_nonneg h0]
    exact hle.trans_lt ((le_abs_self _).trans_lt (abs_toRat_lt hxf))
  have hlower := hround.le_toRat hlt zero_isFinite (by rw [toRat_zero]; exact_mod_cast h0)
  have hupper := hround.toRat_le hlt hxf hle
  rw [toRat_zero] at hlower
  exact ⟨(inUnit_iff _).mpr ⟨(hround.of_lt hlt).1, hlower, hupper.trans hx1⟩, hupper⟩

/-- A value of `[0, 1]` is emitted as a finite word. -/
theorem overflows32_of_inUnit {x : F64} (hx : inUnit x = true) : F64.overflows32 x = false := by
  obtain ⟨hxf, hx0, hx1⟩ := (inUnit_iff x).mp hx
  have hround := ((portResultsAreNearest x).1 hxf).1
  unfold Rounded32 at hround
  rw [if_pos (by rw [abs_of_nonneg hx0]; linarith)] at hround
  simpa [F64.overflows32, f32Finite] using hround.1

/-! ### MENV_PROC -/

/-- Settles O34: the body is one product, and a product of two values of `[0, 1]` overflows nothing. -/
theorem menvProcMultipliesAndNeverRises : Obligations.MenvProcMultipliesAndNeverRises := by
  intro s sr hsr l
  constructor
  · have hprocess : menvProcess binary64 s.menv =
        { unit := { s.menv with level := written l }, sample := written l,
          overflow := anyNonfinite binary64 [l] } := rfl
    change execMenvProcWith params s = _
    simp only [execMenvProcWith, hsr, withRate_some, params_num, hprocess, complete_stickyAfter]
    rfl
  · intro hlevel hcoef
    obtain ⟨hl, hle⟩ : inUnit l = true ∧ l.toRat ≤ s.menv.level.toRat := mul_inUnit hlevel hcoef
    have hlf := ((inUnit_iff l).mp hl).1
    refine ⟨(ge_iff ((inUnit_iff _).mp hlevel).1 hlf).mpr hle, hl, ?_⟩
    simp [stickyAfter, hlf, written_of_finite hlf, overflows32_of_inUnit hl]

/-! ### OSC_GLIDE -/

theorem one_le_ceilCount {lim : ℕ} (h : 1 ≤ lim) (x : F64) : 1 ≤ F64.ceilCount lim x := by
  unfold F64.ceilCount
  split
  · exact Nat.le_min.mpr ⟨h, Nat.le_max_left _ _⟩
  · split
    · exact Nat.le_min.mpr ⟨h, le_rfl⟩
    · exact h

theorem ceilCount_le (lim : ℕ) (x : F64) : F64.ceilCount lim x ≤ lim := by
  unfold F64.ceilCount
  split
  · exact Nat.min_le_left _ _
  · split
    · exact Nat.min_le_left _ _
    · exact le_rfl

/-- For a finite length the count is the clamped ceiling of its exact value. -/
theorem ceilCount_of_finite (lim : ℕ) {x : F64} (hx : x.isFinite = true) :
    (F64.ceilCount lim x : ℤ) = min (lim : ℤ) (max 1 ⌈x.toRat⌉) := by
  have hceil : -(F64.neg x).floorInt = ⌈x.toRat⌉ := by rw [floorInt_eq, toRat_neg, Int.floor_neg, neg_neg]
  have hcount : F64.ceilCount lim x = min lim (max 1 ⌈x.toRat⌉.toNat) := by
    rw [F64.ceilCount, if_pos hx, hceil]
  rw [hcount]
  push_cast
  omega

theorem ceilCount_inf (lim : ℕ) : F64.ceilCount lim (F64.inf false) = lim := by
  have hfin : (F64.inf false).isFinite = false := by decide
  have hneg : ((F64.inf false).isNeg || (F64.inf false).isNaN) = false := by decide
  simp [F64.ceilCount, hfin, hneg]

/-- Settles O24: the target is finite, so the multiplier alone can overflow. -/
theorem oscGlideStartsAGlide : Obligations.OscGlideStartsAGlide := by
  intro hz ms s sr hhz hms hsr tgt t x n mult
  have htgt : tgt.isFinite = true := max_isFinite (F64.ofF32_isFinite hhz) freqMin_isFinite
  refine ⟨?_, one_le_ceilCount (by decide) x, ceilCount_le _ x, ceilCount_of_finite _, ?_⟩
  · have hupdate : oscGlideTo params sr (F64.ofF32 hz) (F64.ofF32 ms) s.osc =
        { unit := { s.osc with glideMult := written mult, targetFrequency := written tgt,
                               glideSteps := n }
          overflow := anyNonfinite binary64 [mult, tgt] } := rfl
    have hsticky : stickyAfter [mult, tgt] [] s.sticky = stickyAfter [mult] [] s.sticky := by
      rw [stickyAfter_perm (List.Perm.swap tgt mult []), stickyAfter_cons_of_finite htgt]
    change execOscGlideWith params hz ms s = _
    simp only [execOscGlideWith, withF32_finite hhz, withF32_finite hms, hsr, withRate_some,
      params_num, binary64_ofF32, hupdate, completeOsc, complete_setter, written_of_finite htgt,
      hsticky]
  · intro hx
    have : n = F64.ceilCount params.glideCntMax (F64.inf false) := by rw [← hx]
    rw [this, ceilCount_inf]

end Sys2Proof.Machine

end


/-! ## The exponential's enclosure (rules R7 and R13) -/

section

namespace Sys2Proof

/-! ### Quotients rounded down and up -/

/-- A truncated quotient is within 1 below the real one. -/
theorem div_le_natDiv_add_one (m n : ℕ) : (m : ℝ) / n ≤ (m / n : ℕ) + 1 := by
  rw [← Nat.floor_div_eq_div (K := ℝ)]
  exact (Nat.lt_floor_add_one _).le

theorem shiftRight_le (m P : ℕ) : ((m >>> P : ℕ) : ℝ) ≤ m / 2 ^ P := by
  rw [Nat.shiftRight_eq_div_pow]
  exact_mod_cast Nat.cast_div_le (α := ℝ) (m := m) (n := 2 ^ P)

theorem le_shiftRight_add_one (m P : ℕ) : (m : ℝ) / 2 ^ P ≤ ((m >>> P : ℕ) : ℝ) + 1 := by
  rw [Nat.shiftRight_eq_div_pow]
  exact_mod_cast div_le_natDiv_add_one m (2 ^ P)

/-! ### The series -/

/-- The partial sums of the exponential series: the terms of index up to `k`. -/
noncomputable def expSum (y : ℝ) (k : ℕ) : ℝ := ∑ m ∈ Finset.range (k + 1), y ^ m / (m.factorial : ℝ)

theorem expSum_succ (y : ℝ) (k : ℕ) :
    expSum y (k + 1) = expSum y k + y ^ (k + 1) / ((k + 1).factorial : ℝ) :=
  Finset.sum_range_succ _ _

/-- One term of the series from the one before. -/
theorem expTerm_succ (y : ℝ) (k : ℕ) :
    y ^ (k + 1) / ((k + 1).factorial : ℝ) = y ^ k / (k.factorial : ℝ) * y / (k + 1) := by
  rw [Nat.factorial_succ, pow_succ]
  push_cast
  field_simp

theorem expSum_le_exp {y : ℝ} (hy : 0 ≤ y) (k : ℕ) : expSum y k ≤ Real.exp y :=
  Real.sum_le_exp_of_nonneg hy _

/-- For an argument up to one half, the tail is at most the last term. -/
theorem exp_le_expSum_add {y : ℝ} (hy : 0 ≤ y) (hy' : y ≤ 1 / 2) (k : ℕ) :
    Real.exp y ≤ expSum y k + y ^ k / (k.factorial : ℝ) := by
  refine (Real.exp_bound' hy (by linarith) (Nat.succ_pos k)).trans ?_
  rw [expSum]
  refine add_le_add_right ?_ _
  have hk : (0 : ℝ) < k + 1 := by positivity
  have hfac : (0 : ℝ) < k.factorial := by positivity
  have hterm : 0 ≤ y ^ k / (k.factorial : ℝ) := by positivity
  have hfactor : y * (k + 2) / ((k + 1) * (k + 1)) ≤ 1 := by
    rw [div_le_one (by positivity)]
    nlinarith [(Nat.cast_nonneg k : (0 : ℝ) ≤ k)]
  calc y ^ k.succ * ((k.succ : ℕ) + 1) / ((k.succ.factorial : ℕ) * (k.succ : ℕ))
      = y ^ k / (k.factorial : ℝ) * (y * (k + 2) / ((k + 1) * (k + 1))) := by
        rw [Nat.factorial_succ, pow_succ]
        push_cast
        field_simp
        ring
    _ ≤ y ^ k / (k.factorial : ℝ) := mul_le_of_le_one_right hterm hfactor

/-- One step of the series, rounded down. -/
theorem expTerm_le {P r k term : ℕ} {y : ℝ} (hr : (r : ℝ) ≤ 2 ^ P * y)
    (hterm : (term : ℝ) ≤ 2 ^ P * (y ^ k / (k.factorial : ℝ))) :
    ((term * r / ((k + 1) <<< P) : ℕ) : ℝ) ≤ 2 ^ P * (y ^ (k + 1) / ((k + 1).factorial : ℝ)) := by
  have hS : (0 : ℝ) < 2 ^ P := by positivity
  refine Nat.cast_div_le.trans ?_
  rw [Nat.shiftLeft_eq, expTerm_succ]
  push_cast
  rw [div_le_iff₀ (by positivity)]
  calc (term : ℝ) * r ≤ 2 ^ P * (y ^ k / (k.factorial : ℝ)) * (2 ^ P * y) :=
        mul_le_mul hterm hr (Nat.cast_nonneg _) ((Nat.cast_nonneg _).trans hterm)
    _ = _ := by field_simp

/-- One step of the series, rounded up. -/
theorem le_expTerm {P r k term : ℕ} {y : ℝ} (hy : 0 ≤ y) (hr : 2 ^ P * y ≤ r)
    (hterm : 2 ^ P * (y ^ k / (k.factorial : ℝ)) ≤ term) :
    2 ^ P * (y ^ (k + 1) / ((k + 1).factorial : ℝ)) ≤
      ((term * r / ((k + 1) <<< P) + 1 : ℕ) : ℝ) := by
  have hS : (0 : ℝ) < 2 ^ P := by positivity
  rw [Nat.cast_add, Nat.cast_one]
  refine le_trans ?_ (div_le_natDiv_add_one _ _)
  rw [Nat.shiftLeft_eq, expTerm_succ]
  push_cast
  rw [le_div_iff₀ (by positivity)]
  calc _ = 2 ^ P * (y ^ k / (k.factorial : ℝ)) * (2 ^ P * y) := by field_simp
    _ ≤ (term : ℝ) * r := mul_le_mul hterm hr (by positivity) (Nat.cast_nonneg _)

/-- The series rounded down stays below the partial sums. -/
theorem expSeries_le {P r : ℕ} {y : ℝ} (hy : 0 ≤ y) (hr : (r : ℝ) ≤ 2 ^ P * y) (n k term sum : ℕ)
    (hterm : (term : ℝ) ≤ 2 ^ P * (y ^ k / (k.factorial : ℝ)))
    (hsum : (sum : ℝ) ≤ 2 ^ P * expSum y k) :
    (expSeries P r 0 n (k + 1) term sum : ℝ) ≤ 2 ^ P * Real.exp y := by
  induction n generalizing k term sum with
  | zero =>
    rw [expSeries, Nat.zero_mul, Nat.add_zero]
    exact hsum.trans (mul_le_mul_of_nonneg_left (expSum_le_exp hy k) (by positivity))
  | succ n ih =>
    have hterm' := expTerm_le hr hterm
    refine ih (k + 1) _ _ hterm' ?_
    rw [expSum_succ, mul_add, Nat.cast_add]
    exact add_le_add hsum hterm'

/-- The series rounded up, with the last term once more, stays above the exponential. -/
theorem le_expSeries {P r : ℕ} {y : ℝ} (hy : 0 ≤ y) (hy' : y ≤ 1 / 2) (hr : 2 ^ P * y ≤ r)
    (n k term sum : ℕ) (hterm : 2 ^ P * (y ^ k / (k.factorial : ℝ)) ≤ term)
    (hsum : 2 ^ P * expSum y k ≤ sum) :
    2 ^ P * Real.exp y ≤ (expSeries P r 1 n (k + 1) term sum : ℝ) := by
  induction n generalizing k term sum with
  | zero =>
    rw [expSeries, Nat.one_mul, Nat.cast_add]
    refine (mul_le_mul_of_nonneg_left (exp_le_expSum_add hy hy' k) (by positivity)).trans ?_
    rw [mul_add]
    exact add_le_add hsum hterm
  | succ n ih =>
    have hterm' := le_expTerm hy hr hterm
    refine ih (k + 1) _ _ hterm' ?_
    rw [expSum_succ, mul_add, Nat.cast_add]
    exact add_le_add hsum hterm'

/-! ### The squarings -/

theorem squarings_le {P : ℕ} (n v : ℕ) {E : ℝ} (hv : (v : ℝ) ≤ 2 ^ P * E) :
    (squarings P 0 n v : ℝ) ≤ 2 ^ P * E ^ 2 ^ n := by
  induction n generalizing v E with
  | zero => simpa [squarings] using hv
  | succ n ih =>
    rw [pow_succ' 2 n, pow_mul E]
    refine ih _ ?_
    have hS : (0 : ℝ) < 2 ^ P := by positivity
    refine (shiftRight_le _ _).trans ?_
    rw [div_le_iff₀ hS]
    push_cast
    calc (v : ℝ) * v ≤ 2 ^ P * E * (2 ^ P * E) :=
          mul_le_mul hv hv (Nat.cast_nonneg _) ((Nat.cast_nonneg _).trans hv)
      _ = _ := by ring

theorem le_squarings {P : ℕ} (n v : ℕ) {E : ℝ} (hE : 0 ≤ E) (hv : 2 ^ P * E ≤ v) :
    2 ^ P * E ^ 2 ^ n ≤ (squarings P 1 n v : ℝ) := by
  induction n generalizing v E with
  | zero => simpa [squarings] using hv
  | succ n ih =>
    rw [pow_succ' 2 n, pow_mul E]
    refine ih _ (by positivity) ?_
    have hS : (0 : ℝ) < 2 ^ P := by positivity
    rw [Nat.cast_add, Nat.cast_one]
    refine le_trans ?_ (le_shiftRight_add_one _ _)
    rw [le_div_iff₀ hS]
    push_cast
    calc _ = 2 ^ P * E * (2 ^ P * E) := by ring
      _ ≤ (v : ℝ) * v := mul_le_mul hv hv (by positivity) (Nat.cast_nonneg _)

/-! ### The bound -/

/-- How often the argument is halved. -/
def halvings (p d : ℕ) : ℕ := Nat.log2 (p / d + 1) + 8

/-- The halved argument is below one half. -/
theorem halved_le (p d : ℕ) : (p : ℝ) / d / 2 ^ halvings p d ≤ 1 / 2 := by
  have hlog : ((p / d + 1 : ℕ) : ℝ) ≤ 2 ^ (Nat.log2 (p / d + 1) + 1) := by
    exact_mod_cast (Nat.lt_log2_self (n := p / d + 1)).le
  have hpd : (p : ℝ) / d ≤ 2 ^ (Nat.log2 (p / d + 1) + 1) := by
    refine (div_le_natDiv_add_one p d).trans ?_
    exact_mod_cast hlog
  rw [div_le_iff₀ (by positivity)]
  refine hpd.trans ?_
  calc (2 : ℝ) ^ (Nat.log2 (p / d + 1) + 1) ≤ 2 ^ (Nat.log2 (p / d + 1) + 7) :=
        pow_le_pow_right₀ one_le_two (by omega)
    _ = _ := by rw [halvings, pow_add, pow_add]; ring

/-- Squared as often as halved, the exponential is back at its argument. -/
theorem exp_halved_pow (x : ℝ) (j : ℕ) : Real.exp (x / 2 ^ j) ^ 2 ^ j = Real.exp x := by
  rw [← Real.exp_nat_mul]
  congr 1
  push_cast
  field_simp

/-- The halved argument at scale `2 ^ P`, as the real quotient. -/
theorem halved_quotient (P p d j : ℕ) :
    ((p <<< P : ℕ) : ℝ) / ((d <<< j : ℕ) : ℝ) = 2 ^ P * ((p : ℝ) / d / 2 ^ j) := by
  rw [Nat.shiftLeft_eq, Nat.shiftLeft_eq]
  push_cast
  rw [div_div]
  ring

theorem expBound_le (P p d : ℕ) : (expBound 0 P p d : ℝ) ≤ 2 ^ P * Real.exp ((p : ℝ) / d) := by
  rw [← exp_halved_pow ((p : ℝ) / d) (halvings p d)]
  refine squarings_le _ _ (expSeries_le (by positivity) ?_ _ 0 _ _ ?_ ?_)
  · rw [← halved_quotient]
    exact Nat.cast_div_le
  · simp [Nat.one_shiftLeft]
  · simp [Nat.one_shiftLeft, expSum]

theorem le_expBound (P p d : ℕ) : 2 ^ P * Real.exp ((p : ℝ) / d) ≤ (expBound 1 P p d : ℝ) := by
  rw [← exp_halved_pow ((p : ℝ) / d) (halvings p d)]
  refine le_squarings _ _ (Real.exp_nonneg _)
    (le_expSeries (by positivity) (halved_le p d) ?_ _ 0 _ _ ?_ ?_)
  · rw [← halved_quotient, Nat.cast_add, Nat.cast_one]
    exact div_le_natDiv_add_one _ _
  · simp [Nat.one_shiftLeft]
  · simp [Nat.one_shiftLeft, expSum]

namespace Machine

/-- Settles O59: series and squarings each keep the side of their rounding. -/
theorem exponentialIsEnclosed : Obligations.ExponentialIsEnclosed :=
  fun P p d _ => ⟨expBound_le P p d, le_expBound P p d⟩

end Machine

end Sys2Proof

end


/-! ## The logarithm's enclosure (rules R7 and R13) -/

section

namespace Sys2Proof

/-! ### The series of the inverse hyperbolic tangent -/

/-- A term of the series. -/
noncomputable def atanhTerm (z : ℝ) (m : ℕ) : ℝ := z ^ (2 * m + 1) / (2 * m + 1)

/-- The terms of index up to `k`. -/
noncomputable def atanhSum (z : ℝ) (k : ℕ) : ℝ := ∑ m ∈ Finset.range (k + 1), atanhTerm z m

theorem atanhSum_succ (z : ℝ) (k : ℕ) : atanhSum z (k + 1) = atanhSum z k + atanhTerm z (k + 1) :=
  Finset.sum_range_succ _ _

theorem artanh_eq_log_sub_log {z : ℝ} (hz : |z| < 1) :
    Real.artanh z = (Real.log (1 + z) - Real.log (1 - z)) / 2 := by
  obtain ⟨hlo, hhi⟩ := abs_lt.mp hz
  rw [Real.artanh_eq_half_log ⟨hlo.le, hhi.le⟩, Real.log_div (by linarith) (by linarith)]
  ring

theorem hasSum_artanh {z : ℝ} (hz : |z| < 1) : HasSum (atanhTerm z) (Real.artanh z) := by
  have h := (Real.hasSum_log_sub_log_of_abs_lt_one hz).div_const 2
  have hterm : (fun m : ℕ => (2 : ℝ) * (1 / (2 * m + 1)) * z ^ (2 * m + 1) / 2) = atanhTerm z := by
    funext m
    rw [atanhTerm]
    ring
  rwa [hterm, ← artanh_eq_log_sub_log hz] at h

theorem atanhTerm_nonneg {z : ℝ} (hz : 0 ≤ z) (m : ℕ) : 0 ≤ atanhTerm z m := by
  unfold atanhTerm; positivity

theorem atanhSum_le_artanh {z : ℝ} (hz : 0 ≤ z) (hz' : z < 1) (k : ℕ) : atanhSum z k ≤ Real.artanh z :=
  sum_le_hasSum _ (fun m _ => atanhTerm_nonneg hz m)
    (hasSum_artanh (by rwa [abs_of_nonneg hz]))

/-- For an argument up to one third, the tail is at most the last power. -/
theorem artanh_le_atanhSum_add {z : ℝ} (hz : 0 ≤ z) (hz' : z ≤ 1 / 3) (k : ℕ) :
    Real.artanh z ≤ atanhSum z k + z ^ (2 * k + 1) := by
  have hsq : z ^ 2 ≤ 1 / 9 := by nlinarith
  have hsq0 : 0 ≤ z ^ 2 := by positivity
  have htail := (hasSum_nat_add_iff' (k + 1)).mpr (hasSum_artanh (z := z) (by rw [abs_of_nonneg hz]; linarith))
  have hgeom := (hasSum_geometric_of_lt_one hsq0 (by linarith)).mul_left (z ^ (2 * k + 3))
  have hle : ∀ m, atanhTerm z (m + (k + 1)) ≤ z ^ (2 * k + 3) * (z ^ 2) ^ m := by
    intro m
    have hpow : z ^ (2 * (m + (k + 1)) + 1) = z ^ (2 * k + 3) * (z ^ 2) ^ m := by
      rw [← pow_mul, ← pow_add]; congr 1; omega
    rw [atanhTerm, hpow]
    refine div_le_self (by positivity) ?_
    push_cast
    nlinarith [(Nat.cast_nonneg m : (0 : ℝ) ≤ m), (Nat.cast_nonneg k : (0 : ℝ) ≤ k)]
  have hbound := hasSum_le hle htail hgeom
  have hlast : z ^ (2 * k + 3) * (1 - z ^ 2)⁻¹ ≤ z ^ (2 * k + 1) := by
    rw [← div_eq_mul_inv, div_le_iff₀ (by linarith), show 2 * k + 3 = 2 * k + 1 + 2 by rfl, pow_add]
    exact mul_le_mul_of_nonneg_left (by linarith) (by positivity)
  have : Real.artanh z - atanhSum z k ≤ z ^ (2 * k + 1) := hbound.trans hlast
  linarith

/-- A product at scale `2 ^ P`, rounded down. -/
theorem scaled_mul_le {P u v : ℕ} {x y : ℝ} (hu : (u : ℝ) ≤ 2 ^ P * x) (hv : (v : ℝ) ≤ 2 ^ P * y) :
    (((u * v) >>> P : ℕ) : ℝ) ≤ 2 ^ P * (x * y) := by
  refine (shiftRight_le _ _).trans ?_
  rw [div_le_iff₀ (by positivity)]
  push_cast
  calc (u : ℝ) * v ≤ 2 ^ P * x * (2 ^ P * y) :=
        mul_le_mul hu hv (Nat.cast_nonneg _) ((Nat.cast_nonneg _).trans hu)
    _ = _ := by ring

/-- A product at scale `2 ^ P`, rounded up. -/
theorem le_scaled_mul {P u v : ℕ} {x y : ℝ} (hy : 0 ≤ y) (hu : 2 ^ P * x ≤ u)
    (hv : 2 ^ P * y ≤ v) : 2 ^ P * (x * y) ≤ (((u * v) >>> P + 1 : ℕ) : ℝ) := by
  rw [Nat.cast_add, Nat.cast_one]
  refine le_trans ?_ (le_shiftRight_add_one _ _)
  rw [le_div_iff₀ (by positivity)]
  push_cast
  calc _ = 2 ^ P * x * (2 ^ P * y) := by ring
    _ ≤ (u : ℝ) * v := mul_le_mul hu hv (by positivity) (Nat.cast_nonneg _)

theorem atanhSeries_le {P z2 : ℕ} {z : ℝ} (hz : 0 ≤ z) (hz' : z ≤ 1 / 3)
    (hz2 : (z2 : ℝ) ≤ 2 ^ P * z ^ 2) (n k power sum : ℕ)
    (hpower : (power : ℝ) ≤ 2 ^ P * z ^ (2 * k + 1)) (hsum : (sum : ℝ) ≤ 2 ^ P * atanhSum z k) :
    (atanhSeries P z2 0 n (k + 1) power sum : ℝ) ≤ 2 ^ P * Real.artanh z := by
  induction n generalizing k power sum with
  | zero =>
    rw [atanhSeries, Nat.zero_mul, Nat.add_zero]
    exact hsum.trans (mul_le_mul_of_nonneg_left (atanhSum_le_artanh hz (by linarith) k) (by positivity))
  | succ n ih =>
    have hpower' := scaled_mul_le hpower hz2
    rw [← pow_add] at hpower'
    refine ih (k + 1) _ _ hpower' ?_
    simp only [Nat.add_zero]
    rw [atanhSum_succ, mul_add ((2 : ℝ) ^ P), Nat.cast_add]
    refine add_le_add hsum (Nat.cast_div_le.trans ?_)
    rw [atanhTerm, ← mul_div_assoc]
    push_cast
    gcongr
    exact hpower'

theorem le_atanhSeries {P z2 : ℕ} {z : ℝ} (hz : 0 ≤ z) (hz' : z ≤ 1 / 3)
    (hz2 : 2 ^ P * z ^ 2 ≤ z2) (n k power sum : ℕ)
    (hpower : 2 ^ P * z ^ (2 * k + 1) ≤ power) (hsum : 2 ^ P * atanhSum z k ≤ sum) :
    2 ^ P * Real.artanh z ≤ (atanhSeries P z2 1 n (k + 1) power sum : ℝ) := by
  induction n generalizing k power sum with
  | zero =>
    rw [atanhSeries, Nat.one_mul, Nat.cast_add]
    refine (mul_le_mul_of_nonneg_left (artanh_le_atanhSum_add hz hz' k) (by positivity)).trans ?_
    rw [mul_add]
    exact add_le_add hsum hpower
  | succ n ih =>
    have hpower' := le_scaled_mul (by positivity) hpower hz2
    rw [← pow_add] at hpower'
    refine ih (k + 1) _ _ hpower' ?_
    rw [atanhSum_succ, mul_add ((2 : ℝ) ^ P), Nat.add_assoc, Nat.cast_add]
    refine add_le_add hsum ?_
    rw [Nat.cast_add, Nat.cast_one]
    refine le_trans ?_ (div_le_natDiv_add_one _ _)
    rw [atanhTerm, ← mul_div_assoc]
    push_cast at hpower' ⊢
    gcongr
    exact hpower'

/-! ### The bounds -/

theorem atanhBound_le (P : ℕ) {a b : ℕ} (hz : (a : ℝ) / b ≤ 1 / 3) :
    (atanhBound 0 P a b : ℝ) ≤ 2 ^ P * Real.artanh ((a : ℝ) / b) := by
  have hz0 : ((a <<< P / b : ℕ) : ℝ) ≤ 2 ^ P * ((a : ℝ) / b) := by
    refine Nat.cast_div_le.trans (le_of_eq ?_)
    rw [Nat.shiftLeft_eq]; push_cast; ring
  refine atanhSeries_le (by positivity) hz ?_ _ 0 _ _ (by simpa using hz0) ?_
  · rw [sq]; exact scaled_mul_le hz0 hz0
  · simpa [atanhSum, atanhTerm] using hz0

theorem le_atanhBound (P : ℕ) {a b : ℕ} (hz : (a : ℝ) / b ≤ 1 / 3) :
    2 ^ P * Real.artanh ((a : ℝ) / b) ≤ (atanhBound 1 P a b : ℝ) := by
  have hz0 : 2 ^ P * ((a : ℝ) / b) ≤ ((a <<< P / b + 1 : ℕ) : ℝ) := by
    rw [Nat.cast_add, Nat.cast_one]
    refine le_trans (le_of_eq ?_) (div_le_natDiv_add_one _ _)
    rw [Nat.shiftLeft_eq]; push_cast; ring
  refine le_atanhSeries (by positivity) hz ?_ _ 0 _ _ (by simpa using hz0) ?_
  · rw [sq]; exact le_scaled_mul (by positivity) hz0 hz0
  · simpa [atanhSum, atanhTerm] using hz0

/-! ### The reduction to `[1, 2)` -/

/-- The exponent of the power of two that is split off. -/
def log2Quot (p d : ℕ) : ℤ :=
  if d <<< (Nat.log2 p - Nat.log2 d) ≤ p <<< (Nat.log2 d - Nat.log2 p) then
    (Nat.log2 p : ℤ) - Nat.log2 d
  else (Nat.log2 p : ℤ) - Nat.log2 d - 1

/-- The numerator and the denominator that are left. -/
def reducedNum (p d : ℕ) : ℕ := p <<< (-log2Quot p d).toNat
def reducedDen (p d : ℕ) : ℕ := d <<< (log2Quot p d).toNat

theorem lnBound_eq (dir P p d : ℕ) :
    lnBound dir P p d =
      2 * (atanhBound dir P (reducedNum p d - reducedDen p d) (reducedNum p d + reducedDen p d) : ℤ) +
        2 * log2Quot p d * (atanhBound (if log2Quot p d < 0 then 1 - dir else dir) P 1 3 : ℤ) := rfl

/-- What is left lies in `[1, 2)`. -/
theorem reduced_range {p d : ℕ} (hp : p ≠ 0) (hd : d ≠ 0) :
    reducedDen p d ≤ reducedNum p d ∧ reducedNum p d < 2 * reducedDen p d := by
  have p1 := Nat.log2_self_le hp
  have p2 := Nat.lt_log2_self (n := p)
  have d1 := Nat.log2_self_le hd
  have d2 := Nat.lt_log2_self (n := d)
  unfold reducedNum reducedDen log2Quot
  simp only [Nat.shiftLeft_eq]
  generalize Nat.log2 p = L at *
  generalize Nat.log2 d = D at *
  split
  · rename_i h
    rw [show (-((L : ℤ) - D)).toNat = D - L by omega, show ((L : ℤ) - D).toNat = L - D by omega]
    refine ⟨h, ?_⟩
    calc p * 2 ^ (D - L) < 2 ^ (L + 1) * 2 ^ (D - L) :=
          Nat.mul_lt_mul_of_pos_right p2 (Nat.two_pow_pos _)
      _ = 2 * (2 ^ D * 2 ^ (L - D)) := by
          rw [← Nat.pow_add, ← Nat.pow_add, ← Nat.pow_succ']; congr 1; omega
      _ ≤ 2 * (d * 2 ^ (L - D)) := Nat.mul_le_mul_left _ (Nat.mul_le_mul_right _ d1)
  · rename_i h
    rw [Nat.not_le] at h
    rcases Nat.lt_or_ge D L with hl | hl
    · rw [show (-((L : ℤ) - D - 1)).toNat = 0 by omega,
        show ((L : ℤ) - D - 1).toNat = L - D - 1 by omega, Nat.pow_zero, Nat.mul_one]
      rw [show D - L = 0 by omega, Nat.pow_zero, Nat.mul_one] at h
      constructor
      · calc d * 2 ^ (L - D - 1) ≤ 2 ^ (D + 1) * 2 ^ (L - D - 1) := Nat.mul_le_mul_right _ d2.le
          _ = 2 ^ L := by rw [← Nat.pow_add]; congr 1; omega
          _ ≤ p := p1
      · calc p < d * 2 ^ (L - D) := h
          _ = 2 * (d * 2 ^ (L - D - 1)) := by
            rw [Nat.mul_left_comm, ← Nat.pow_succ']; congr 2; omega
    · rw [show (-((L : ℤ) - D - 1)).toNat = D - L + 1 by omega,
        show ((L : ℤ) - D - 1).toNat = 0 by omega, Nat.pow_zero, Nat.mul_one]
      rw [show L - D = 0 by omega, Nat.pow_zero, Nat.mul_one] at h
      constructor
      · calc d ≤ 2 ^ (D + 1) := d2.le
          _ = 2 ^ L * 2 ^ (D - L + 1) := by rw [← Nat.pow_add]; congr 1; omega
          _ ≤ p * 2 ^ (D - L + 1) := Nat.mul_le_mul_right _ p1
      · rw [Nat.pow_succ, ← Nat.mul_assoc]; omega

theorem reducedDen_ne_zero {p d : ℕ} (hd : d ≠ 0) : reducedDen p d ≠ 0 := by
  rw [reducedDen, Nat.shiftLeft_eq]; positivity

theorem log_shiftLeft {m : ℕ} (hm : m ≠ 0) (n : ℕ) :
    Real.log ((m <<< n : ℕ) : ℝ) = Real.log m + n * Real.log 2 := by
  rw [Nat.shiftLeft_eq, Nat.cast_mul, Real.log_mul (by exact_mod_cast hm) (by positivity)]
  push_cast
  rw [Real.log_pow]

theorem log_reduced {p d : ℕ} (hp : p ≠ 0) (hd : d ≠ 0) :
    Real.log ((p : ℝ) / d) =
      Real.log ((reducedNum p d : ℝ) / reducedDen p d) + log2Quot p d * Real.log 2 := by
  have hb := reducedDen_ne_zero (p := p) hd
  have ha : reducedNum p d ≠ 0 := (reduced_range hp hd).1.trans_lt' (Nat.pos_of_ne_zero hb) |>.ne'
  have hk : (log2Quot p d : ℝ) = ((log2Quot p d).toNat : ℝ) - ((-log2Quot p d).toNat : ℝ) := by
    exact_mod_cast (Int.toNat_sub_toNat_neg _).symm
  rw [Real.log_div (by exact_mod_cast hp) (by exact_mod_cast hd),
    Real.log_div (by exact_mod_cast ha) (by exact_mod_cast hb), reducedNum, reducedDen,
    log_shiftLeft hp, log_shiftLeft hd, hk]
  ring

/-- The logarithm of `a / b` from its image `(a - b) / (a + b)`. -/
theorem log_eq_artanh {a b : ℕ} (hb : b ≠ 0) (h : b ≤ a) :
    Real.log ((a : ℝ) / b) = 2 * Real.artanh (((a - b : ℕ) : ℝ) / (a + b : ℕ)) := by
  have hb' : (0 : ℝ) < b := by exact_mod_cast Nat.pos_of_ne_zero hb
  have hle : (b : ℝ) ≤ a := by exact_mod_cast h
  have hcast : ((a - b : ℕ) : ℝ) / (a + b : ℕ) = (a - b) / (a + b) := by
    rw [Nat.cast_sub h, Nat.cast_add]
  have hrange : ((a : ℝ) - b) / (a + b) ∈ Set.Icc (-1) 1 := by
    refine ⟨le_trans (by norm_num) (div_nonneg (sub_nonneg.mpr hle) (by positivity)), ?_⟩
    rw [div_le_one (by linarith)]
    linarith
  have hquot : (1 + ((a : ℝ) - b) / (a + b)) / (1 - (a - b) / (a + b)) = a / b := by
    have hab : (a : ℝ) + b ≠ 0 := by linarith
    rw [one_add_div hab, one_sub_div hab, div_div_div_cancel_right₀ hab,
      show (a : ℝ) + b + (a - b) = 2 * a by ring, show (a : ℝ) + b - (a - b) = 2 * b by ring,
      mul_div_mul_left _ _ two_ne_zero]
  rw [hcast, Real.artanh_eq_half_log hrange, hquot]
  ring

theorem log_two_eq : Real.log 2 = 2 * Real.artanh (((1 : ℕ) : ℝ) / (3 : ℕ)) := by
  simpa using log_eq_artanh (a := 2) (b := 1) one_ne_zero (by norm_num)

/-- What is left maps into `[0, 1 / 3]`. -/
theorem reduced_quotient_le {p d : ℕ} (hp : p ≠ 0) (hd : d ≠ 0) :
    ((reducedNum p d - reducedDen p d : ℕ) : ℝ) / (reducedNum p d + reducedDen p d : ℕ) ≤ 1 / 3 := by
  obtain ⟨hle, hlt⟩ := reduced_range hp hd
  have hb := Nat.pos_of_ne_zero (reducedDen_ne_zero (p := p) hd)
  rw [div_le_div_iff₀ (by exact_mod_cast Nat.add_pos_right _ hb) three_pos]
  exact_mod_cast show (reducedNum p d - reducedDen p d) * 3 ≤ 1 * (reducedNum p d + reducedDen p d) by
    omega

/-- The logarithm at scale `2 ^ P`, by the two inverse hyperbolic tangents of the bound. -/
theorem scaled_log_eq (P : ℕ) {p d : ℕ} (hp : p ≠ 0) (hd : d ≠ 0) :
    2 ^ P * Real.log ((p : ℝ) / d) =
      2 * (2 ^ P * Real.artanh (((reducedNum p d - reducedDen p d : ℕ) : ℝ) /
        (reducedNum p d + reducedDen p d : ℕ))) +
      2 * log2Quot p d * (2 ^ P * Real.artanh (((1 : ℕ) : ℝ) / (3 : ℕ))) := by
  rw [log_reduced hp hd, log_two_eq, log_eq_artanh (reducedDen_ne_zero hd) (reduced_range hp hd).1]
  ring

theorem lnBound_le (P : ℕ) {p d : ℕ} (hp : p ≠ 0) (hd : d ≠ 0) :
    (lnBound 0 P p d : ℝ) ≤ 2 ^ P * Real.log ((p : ℝ) / d) := by
  have hthird : (((1 : ℕ) : ℝ) / (3 : ℕ)) ≤ 1 / 3 := by norm_num
  rw [scaled_log_eq P hp hd, lnBound_eq]
  simp only [Int.cast_add, Int.cast_mul, Int.cast_ofNat, Int.cast_natCast]
  refine add_le_add ?_ ?_
  · exact mul_le_mul_of_nonneg_left (atanhBound_le P (reduced_quotient_le hp hd)) two_pos.le
  · split
    · rename_i hk
      exact mul_le_mul_of_nonpos_left (le_atanhBound P hthird) (by
        have : (log2Quot p d : ℝ) ≤ 0 := by exact_mod_cast hk.le
        linarith)
    · rename_i hk
      exact mul_le_mul_of_nonneg_left (atanhBound_le P hthird) (by
        have : (0 : ℝ) ≤ log2Quot p d := by exact_mod_cast not_lt.mp hk
        linarith)

theorem le_lnBound (P : ℕ) {p d : ℕ} (hp : p ≠ 0) (hd : d ≠ 0) :
    2 ^ P * Real.log ((p : ℝ) / d) ≤ (lnBound 1 P p d : ℝ) := by
  have hthird : (((1 : ℕ) : ℝ) / (3 : ℕ)) ≤ 1 / 3 := by norm_num
  rw [scaled_log_eq P hp hd, lnBound_eq]
  simp only [Int.cast_add, Int.cast_mul, Int.cast_ofNat, Int.cast_natCast]
  refine add_le_add ?_ ?_
  · exact mul_le_mul_of_nonneg_left (le_atanhBound P (reduced_quotient_le hp hd)) two_pos.le
  · split
    · rename_i hk
      exact mul_le_mul_of_nonpos_left (atanhBound_le P hthird) (by
        have : (log2Quot p d : ℝ) ≤ 0 := by exact_mod_cast hk.le
        linarith)
    · rename_i hk
      exact mul_le_mul_of_nonneg_left (le_atanhBound P hthird) (by
        have : (0 : ℝ) ≤ log2Quot p d := by exact_mod_cast not_lt.mp hk
        linarith)

namespace Machine

/-- Settles O60: the reduction is exact, and each inverse hyperbolic tangent is bounded on the side
that its factor asks for. -/
theorem logarithmIsEnclosed : Obligations.LogarithmIsEnclosed :=
  fun P _ _ hp hd => ⟨lnBound_le P hp.ne' hd.ne', le_lnBound P hp.ne' hd.ne'⟩

end Machine

end Sys2Proof

end


/-! ## The elementary functions (rules R7 and R13) -/

section

namespace Sys2Proof.Machine

open F64

/-! ### Rounding between two bounds -/

theorem dist_le_dist_iff {x y c : ℝ} (h : x < y) : |x - c| ≤ |y - c| ↔ 2 * c ≤ x + y := by
  rw [← sq_le_sq]
  constructor <;> intro h' <;> nlinarith

theorem dist_eq_dist_iff {x y c : ℝ} (h : x ≠ y) : |x - c| = |y - c| ↔ 2 * c = x + y := by
  rw [abs_eq_abs]
  constructor
  · rintro (h' | h')
    · exact absurd (sub_left_inj.mp h') h
    · linarith
  · intro h'
    right
    linarith

/-- If `x` is at least as near as `y` to two numbers, it is so to every number between them, and
as far only where it is as far from one of the two. -/
theorem nearer_between {x y lo v hi : ℝ} (hne : x ≠ y) (hl : lo ≤ v) (hh : v ≤ hi)
    (hlo : |x - lo| ≤ |y - lo|) (hhi : |x - hi| ≤ |y - hi|) :
    |x - v| ≤ |y - v| ∧
      (|x - v| = |y - v| → |x - lo| = |y - lo| ∨ |x - hi| = |y - hi|) := by
  rw [dist_eq_dist_iff hne, dist_eq_dist_iff hne, dist_eq_dist_iff hne]
  rcases lt_or_gt_of_ne hne with hxy | hyx
  · rw [dist_le_dist_iff hxy] at hhi ⊢
    exact ⟨by linarith, fun heq => .inr (by linarith)⟩
  · have hge : ∀ c, |x - c| ≤ |y - c| ↔ x + y ≤ 2 * c := fun c => by
      rw [← not_lt, lt_iff_le_and_ne, dist_le_dist_iff hyx, Ne, dist_eq_dist_iff hyx.ne,
        ← lt_iff_le_and_ne, not_lt, add_comm]
    rw [hge] at hlo ⊢
    exact ⟨by linarith, fun heq => .inl (by linarith)⟩

theorem inf_not_finite (s : Bool) : (F64.inf s).isFinite = false := by cases s <;> decide

/-- A number between two others that round to one value rounds to it too. -/
theorem Rounded.between {lo v hi : ℝ} {x : F64} (hlo : Rounded lo x) (hhi : Rounded hi x)
    (h0 : 0 ≤ lo) (hl : lo ≤ v) (hh : v ≤ hi) : Rounded v x := by
  have hv0 := h0.trans hl
  unfold Rounded at hlo hhi ⊢
  rw [abs_of_nonneg h0] at hlo
  rw [abs_of_nonneg (hv0.trans hh)] at hhi
  rw [abs_of_nonneg hv0]
  have hinf : ∀ {r : ℝ}, 0 ≤ r → F64.inf (r < 0) = F64.inf false := fun hr => by
    rw [decide_eq_false (not_lt.mpr hr)]
  rw [hinf (hv0.trans hh)] at hhi
  rw [hinf hv0]
  by_cases hv : v < 2 ^ 1024 - 2 ^ 970
  · rw [if_pos hv]
    rw [if_pos (hl.trans_lt hv)] at hlo
    obtain ⟨hfin, hlo⟩ := hlo
    have hhi' : hi < 2 ^ 1024 - 2 ^ 970 := by
      by_contra hge
      rw [if_neg hge] at hhi
      rw [hhi, inf_not_finite] at hfin
      exact absurd hfin (by decide)
    rw [if_pos hhi'] at hhi
    refine ⟨hfin, fun y hy => ?_⟩
    by_cases hxy : y.toRat = x.toRat
    · exact ⟨by rw [hxy], fun _ hne => absurd hxy hne⟩
    obtain ⟨hle0, htie0⟩ := hlo y hy
    obtain ⟨hle1, htie1⟩ := hhi.2 y hy
    obtain ⟨hle, htie⟩ := nearer_between (fun h => hxy (Rat.cast_injective h).symm) hl hh hle0 hle1
    exact ⟨hle, fun heq hne => (htie heq).elim (fun h => htie0 h hne) (fun h => htie1 h hne)⟩
  · rw [if_neg hv]
    rwa [if_neg fun h => hv (hh.trans_lt h)] at hhi

/-- A finite value is its own rounding. -/
theorem rounded_self {x : F64} (hx : x.isFinite = true) : Rounded x.toRat x := by
  unfold Rounded
  rw [if_pos (abs_toRat_lt hx)]
  refine ⟨hx, fun y _ => ?_⟩
  rw [sub_self, abs_zero]
  refine ⟨abs_nonneg _, fun heq hne => absurd ?_ hne⟩
  exact Rat.cast_injective (sub_eq_zero.mp (abs_eq_zero.mp heq.symm))

theorem neg_eq_pack (x : F64) : F64.neg x = pack (!x.isNeg) x.mag := rfl

@[simp] theorem neg_mag (x : F64) : (F64.neg x).mag = x.mag := by
  rw [neg_eq_pack, pack_mag _ x.mag_lt]

theorem bits_toNat_mod_two (x : F64) : x.bits.toNat % 2 = x.mag % 2 := by
  rw [bits_toNat]; split <;> omega

theorem neg_inf (s : Bool) : F64.neg (F64.inf s) = F64.inf (!s) := by cases s <;> decide

/-- Rounding is symmetric in the sign. -/
theorem Rounded.neg {v : ℝ} {x : F64} (h : Rounded v x) : Rounded (-v) (F64.neg x) := by
  unfold Rounded at h ⊢
  rw [abs_neg]
  by_cases hlt : |v| < 2 ^ 1024 - 2 ^ 970
  · rw [if_pos hlt] at h ⊢
    refine ⟨by rw [isFinite_neg, h.1], fun y hy => ?_⟩
    obtain ⟨hle, htie⟩ := h.2 (F64.neg y) (by rw [isFinite_neg, hy])
    have hswap : ∀ r : ℝ, |-r - v| = |r - -v| := fun r => by
      rw [← abs_neg]; congr 1; ring
    have hswap' : ∀ r : ℝ, |-r - -v| = |r - v| := fun r => by
      rw [← abs_neg]; congr 1; ring
    rw [toRat_neg, Rat.cast_neg, hswap] at hle htie
    rw [toRat_neg, Rat.cast_neg, hswap', bits_toNat_mod_two, neg_mag, ← bits_toNat_mod_two]
    exact ⟨hle, fun heq hne => htie heq fun he => hne (by rw [← he, neg_neg])⟩
  · rw [if_neg hlt] at h ⊢
    have hv : v ≠ 0 := fun h0 => hlt (by
      rw [h0, abs_zero]; exact (two_pow_lt_threshold (n := 0) (by norm_num)).trans' (by norm_num))
    have hsign : decide (-v < 0) = !decide (v < 0) := by
      rw [Bool.eq_iff_iff]
      simp only [decide_eq_true_eq, Bool.not_eq_true', decide_eq_false_iff_not, not_lt, Left.neg_neg_iff]
      exact ⟨le_of_lt, fun h => lt_of_le_of_ne h hv.symm⟩
    rw [h, neg_inf, hsign]

theorem Rounded.signed {v : ℝ} {m : ℕ} (hm : m < 2 ^ 63) (h : Rounded v (pack false m)) (s : Bool) :
    Rounded (signFactor s * v) (pack s m) := by
  cases s with
  | false => simpa using h
  | true =>
    have hneg : F64.neg (pack false m) = pack true m := by
      rw [neg_eq_pack, pack_isNeg _ hm, pack_mag _ hm]; rfl
    rw [← hneg]
    simpa using h.neg

/-! ### The search for a precision -/

/-- Where some precision of the list settles, the answer is the common rounding at one that does. -/
theorem exists_agree_eq (enc : ℕ → ℕ → ℕ × ℕ) (l : List ℕ)
    (h : ∃ P ∈ l, roundMag 52 1074 top64 (enc 0 P).1 (enc 0 P).2 =
      roundMag 52 1074 top64 (enc 1 P).1 (enc 1 P).2) :
    ∃ P, agree enc l = roundMag 52 1074 top64 (enc 0 P).1 (enc 0 P).2 ∧
      agree enc l = roundMag 52 1074 top64 (enc 1 P).1 (enc 1 P).2 := by
  induction l with
  | nil => simp at h
  | cons P more ih =>
    by_cases hP : roundMag 52 1074 top64 (enc 0 P).1 (enc 0 P).2 =
        roundMag 52 1074 top64 (enc 1 P).1 (enc 1 P).2
    · exact ⟨P, by simp [agree, hP], by simp [agree, hP]⟩
    · obtain ⟨Q, hQ, heq⟩ := h
      have hQ' : Q ∈ more := (List.mem_cons.mp hQ).resolve_left fun e => hP (e ▸ heq)
      have hagree : agree enc (P :: more) = agree enc more := by
        cases more with
        | nil => simp at hQ'
        | cons _ _ => simp [agree, hP]
      rw [hagree]
      exact ih ⟨Q, hQ', heq⟩

/-- The two bounds of an enclosure at precision `P` are fractions around `v`. -/
structure Encloses (enc : ℕ → ℕ → ℕ × ℕ) (v : ℝ) (P : ℕ) : Prop where
  den0 : (enc 0 P).2 ≠ 0
  den1 : (enc 1 P).2 ≠ 0
  le : ((enc 0 P).1 : ℝ) / (enc 0 P).2 ≤ v
  ge : v ≤ ((enc 1 P).1 : ℝ) / (enc 1 P).2

/-- The rounding that the two bounds of an enclosure share is that of the enclosed number. -/
theorem rounded_agree {enc : ℕ → ℕ → ℕ × ℕ} {v : ℝ} (hs : settled enc)
    (henc : ∀ P, Encloses enc v P) : Rounded v (pack false (agree enc precisions)) := by
  obtain ⟨P, h0, h1⟩ := exists_agree_eq enc precisions hs
  obtain ⟨hd0, hd1, hle, hge⟩ := henc P
  have hlo := rounded_round false (enc 0 P).1 hd0 (v := (enc 0 P).1 / (enc 0 P).2) (by simp)
  have hhi := rounded_round false (enc 1 P).1 hd1 (v := (enc 1 P).1 / (enc 1 P).2) (by simp)
  rw [F64.round, ← h0] at hlo
  rw [F64.round, ← h1] at hhi
  exact hlo.between hhi (by positivity) hle hge

/-! ### exp -/

theorem le_expSeries_sum (P r dir n i term sum : ℕ) : sum ≤ expSeries P r dir n i term sum := by
  induction n generalizing i term sum with
  | zero => exact Nat.le_add_right _ _
  | succ n ih => exact (Nat.le_add_right _ _).trans (ih _ _ _)

theorem two_pow_le_squarings (P dir n : ℕ) {v : ℕ} (hv : 2 ^ P ≤ v) : 2 ^ P ≤ squarings P dir n v := by
  induction n generalizing v with
  | zero => exact hv
  | succ n ih =>
    refine ih ?_
    have : 2 ^ P ≤ (v * v) >>> P := by
      rw [Nat.shiftRight_eq_div_pow, Nat.le_div_iff_mul_le (Nat.two_pow_pos P)]
      exact Nat.mul_le_mul hv hv
    omega

/-- The bound on an exponential of a non-negative argument is at least 1. -/
theorem two_pow_le_expBound (dir P p d : ℕ) : 2 ^ P ≤ expBound dir P p d := by
  refine two_pow_le_squarings _ _ _ ((le_expSeries_sum _ _ _ _ _ _ _).trans' ?_)
  rw [Nat.one_shiftLeft]

theorem expBound_ne_zero (dir P p d : ℕ) : expBound dir P p d ≠ 0 :=
  ((Nat.two_pow_pos P).trans_le (two_pow_le_expBound dir P p d)).ne'

theorem expFrac_den_ne_zero (dir P : ℕ) (n : ℤ) (d : ℕ) : (expFrac dir P n d).2 ≠ 0 := by
  unfold expFrac
  split
  · exact expBound_ne_zero _ _ _ _
  · exact one_shiftLeft_ne_zero _

/-- The exponential of a negative argument is one over that of its magnitude. -/
theorem exp_intCast_div (n : ℤ) (d : ℕ) (hn : n < 0) :
    Real.exp ((n : ℝ) / d) = (Real.exp ((n.natAbs : ℝ) / d))⁻¹ := by
  rw [← Real.exp_neg]
  congr 1
  have h := congrArg (Int.cast (R := ℝ)) (show n = -(n.natAbs : ℤ) by omega)
  rw [Int.cast_neg, Int.cast_natCast] at h
  rw [h, neg_div]

theorem natAbs_cast_of_nonneg {n : ℤ} (hn : ¬ n < 0) : (n : ℝ) = (n.natAbs : ℝ) :=
  (congrArg (Int.cast (R := ℝ)) (show n = (n.natAbs : ℤ) by omega)).trans (Int.cast_natCast _)

theorem expFrac_le (P : ℕ) (n : ℤ) (d : ℕ) :
    ((expFrac 0 P n d).1 : ℝ) / (expFrac 0 P n d).2 ≤ Real.exp ((n : ℝ) / d) := by
  unfold expFrac
  by_cases hn : n < 0
  · rw [if_pos hn, exp_intCast_div n d hn]
    have hpos : (0 : ℝ) < expBound 1 P n.natAbs d := by
      exact_mod_cast Nat.pos_of_ne_zero (expBound_ne_zero _ _ _ _)
    rw [div_le_iff₀ hpos, Nat.one_shiftLeft, inv_mul_eq_div, le_div_iff₀ (Real.exp_pos _)]
    exact_mod_cast le_expBound P n.natAbs d
  · rw [if_neg hn, Nat.one_shiftLeft, natAbs_cast_of_nonneg hn, div_le_iff₀ (by positivity), mul_comm]
    exact_mod_cast expBound_le P n.natAbs d

theorem le_expFrac (P : ℕ) (n : ℤ) (d : ℕ) :
    Real.exp ((n : ℝ) / d) ≤ ((expFrac 1 P n d).1 : ℝ) / (expFrac 1 P n d).2 := by
  unfold expFrac
  by_cases hn : n < 0
  · rw [if_pos hn, exp_intCast_div n d hn]
    have hpos : (0 : ℝ) < expBound 0 P n.natAbs d := by
      exact_mod_cast Nat.pos_of_ne_zero (expBound_ne_zero _ _ _ _)
    rw [le_div_iff₀ hpos, Nat.one_shiftLeft, inv_mul_eq_div, div_le_iff₀ (Real.exp_pos _)]
    exact_mod_cast expBound_le P n.natAbs d
  · rw [if_neg hn, Nat.one_shiftLeft, natAbs_cast_of_nonneg hn, le_div_iff₀ (by positivity), mul_comm]
    exact_mod_cast le_expBound P n.natAbs d

/-- `e ^ 800` is beyond the threshold, and `e ^ -800` below half the least positive value. -/
theorem two_pow_le_exp : (2 : ℝ) ^ 1080 ≤ Real.exp 800 := by
  have h20 : (2 : ℝ) ^ 27 ≤ Real.exp 20 := by
    rw [show (20 : ℝ) = ((20 : ℕ) : ℝ) * 1 by norm_num, Real.exp_nat_mul]
    calc (2 : ℝ) ^ 27 ≤ 2.7 ^ 20 := by norm_num
      _ ≤ Real.exp 1 ^ 20 := pow_le_pow_left₀ (by norm_num) (Real.exp_one_gt_d9.le.trans' (by norm_num)) _
  rw [show (800 : ℝ) = ((40 : ℕ) : ℝ) * 20 by norm_num, Real.exp_nat_mul,
    show 1080 = 27 * 40 by rfl, pow_mul]
  exact pow_le_pow_left₀ (by positivity) h20 _

theorem rounded_exp_of_large {v : ℝ} (h : (800 : ℝ) ≤ v) : Rounded (Real.exp v) (F64.inf false) := by
  have hge : (2 : ℝ) ^ 1080 ≤ Real.exp v := two_pow_le_exp.trans (Real.exp_le_exp.mpr h)
  have hthreshold : (2 : ℝ) ^ 1024 - 2 ^ 970 ≤ 2 ^ 1080 :=
    (sub_le_self _ (by positivity)).trans (pow_le_pow_right₀ one_le_two (by norm_num))
  unfold Rounded
  rw [abs_of_pos (Real.exp_pos v), if_neg (not_lt.mpr (hthreshold.trans hge)),
    decide_eq_false (not_lt.mpr (Real.exp_nonneg v))]

theorem rounded_exp_of_small {v : ℝ} (h : v ≤ -800) : Rounded (Real.exp v) F64.zero := by
  have hhi := rounded_round false 1 (d := 2 ^ 1080) (by positivity) rfl
  rw [show F64.round false 1 (2 ^ 1080) = F64.zero by decide +kernel] at hhi
  refine (rounded_zero false).between hhi le_rfl (Real.exp_nonneg v) ?_
  have hinv : Real.exp v ≤ (Real.exp 800)⁻¹ := by
    rw [← Real.exp_neg]; exact Real.exp_le_exp.mpr h
  refine hinv.trans ?_
  rw [inv_eq_one_div, signFactor_false, Int.cast_one, one_mul, Nat.cast_one, Nat.cast_pow, Nat.cast_ofNat]
  exact one_div_le_one_div_of_le (by positivity) two_pow_le_exp

theorem toRat_of_isZero {x : F64} (h : x.isZero = true) : x.toRat = 0 := by
  rw [toRat_eq_units, units, (isZero_iff x).mp h]; simp

theorem signed_div_eq (s : Bool) (p d : ℕ) :
    (signFactor s : ℝ) * ((p : ℝ) / d) = ((if s then -(p : ℤ) else p : ℤ) : ℝ) / d := by
  cases s <;> simp [neg_div]

/-- A finite value as the signed quotient that the elementary functions compute with. -/
theorem toRat_real_eq_intCast_div (x : F64) :
    (x.toRat : ℝ) = ((if x.isNeg then -(x.num : ℤ) else x.num : ℤ) : ℝ) / x.den :=
  (toRat_real_num_den x).trans (signed_div_eq _ _ _)

theorem den_pos (x : F64) : (0 : ℝ) < x.den := by exact_mod_cast Nat.pos_of_ne_zero (den_ne_zero x)

/-- The test by which `exp` and `tanh` leave out the large arguments. -/
theorem large_test {x : F64} (hx : x.isFinite = true) (n : ℕ) :
    (!x.isFinite || decide (n * x.den ≤ x.num)) = true ↔ (n : ℝ) ≤ (x.num : ℝ) / x.den := by
  rw [hx, Bool.not_true, Bool.false_or, decide_eq_true_iff, le_div_iff₀ (den_pos x)]
  exact_mod_cast Iff.rfl

theorem encloses_exp (x : F64) (P : ℕ) :
    Encloses (fun dir P => expFrac dir P (if x.isNeg then -(x.num : ℤ) else x.num) x.den)
      (Real.exp x.toRat) P := by
  rw [toRat_real_eq_intCast_div]
  exact ⟨expFrac_den_ne_zero _ _ _ _, expFrac_den_ne_zero _ _ _ _, expFrac_le _ _ _, le_expFrac _ _ _⟩

theorem rounded_exp {x : F64} (hx : x.isFinite = true)
    (hs : settled fun dir P => expFrac dir P (if x.isNeg then -(x.num : ℤ) else x.num) x.den) :
    Rounded (Real.exp x.toRat) (F64.exp x) := by
  rw [F64.exp, if_neg (by rw [not_isNaN_of_isFinite hx]; decide)]
  by_cases hz : x.isZero = true
  · have := rounded_self one_isFinite
    rw [if_pos hz, toRat_of_isZero hz, Rat.cast_zero, Real.exp_zero]
    rwa [toRat_one, Rat.cast_one] at this
  rw [if_neg hz]
  by_cases hbig : (!x.isFinite || decide (800 * x.den ≤ x.num)) = true
  · have hquot := (large_test hx 800).mp hbig
    push_cast at hquot
    rw [if_pos hbig, toRat_real_num_den]
    generalize (x.num : ℝ) / x.den = r at hquot
    cases x.isNeg
    · exact rounded_exp_of_large (by simpa using hquot)
    · exact rounded_exp_of_small (by simpa using hquot)
  · rw [if_neg hbig]
    exact rounded_agree hs (encloses_exp x)

/-! ### pow -/

/-- The scaled product of a bound on the logarithm and the exponent, as a real quotient. -/
theorem scaled_exponent (P : ℕ) (L : ℤ) (b : F64) :
    ((L * (b.num : ℤ) : ℤ) : ℝ) / ((b.den <<< P : ℕ) : ℝ) = L / 2 ^ P * ((b.num : ℝ) / b.den) := by
  rw [Nat.shiftLeft_eq]
  push_cast
  rw [mul_comm (b.den : ℝ), mul_div_mul_comm]

theorem shiftLeft_ne_zero {m : ℕ} (hm : m ≠ 0) (n : ℕ) : m <<< n ≠ 0 := by
  rw [Nat.shiftLeft_eq]
  exact Nat.mul_ne_zero hm (Nat.two_pow_pos n).ne'

theorem num_ne_zero {x : F64} (h : x.isZero = false) : x.num ≠ 0 :=
  shiftLeft_ne_zero (mant_ne_zero h) _

/-- A bound on the logarithm gives one on the exponent of the power. -/
theorem encloses_pow {a b : F64} (ha : a.isNeg = false) (ha0 : a.isZero = false)
    (hb : b.isNeg = false) (P : ℕ) :
    Encloses (fun dir P => expFrac dir P (lnBound dir P a.num a.den * (b.num : ℤ)) (b.den <<< P))
      ((a.toRat : ℝ) ^ (b.toRat : ℝ)) P := by
  have hnum := num_ne_zero ha0
  have hpos : (0 : ℝ) < (a.num : ℝ) / a.den :=
    div_pos (by exact_mod_cast Nat.pos_of_ne_zero hnum) (den_pos a)
  have hbnonneg : (0 : ℝ) ≤ (b.num : ℝ) / b.den := div_nonneg (Nat.cast_nonneg _) (Nat.cast_nonneg _)
  have hS : (0 : ℝ) < 2 ^ P := by positivity
  have hpow : (a.toRat : ℝ) ^ (b.toRat : ℝ) =
      Real.exp (Real.log ((a.num : ℝ) / a.den) * ((b.num : ℝ) / b.den)) := by
    rw [toRat_real_num_den, toRat_real_num_den, ha, hb, signFactor_false, Int.cast_one, one_mul,
      one_mul, Real.rpow_def_of_pos hpos]
  have hd := den_ne_zero a
  refine ⟨expFrac_den_ne_zero _ _ _ _, expFrac_den_ne_zero _ _ _ _, ?_, ?_⟩
  · refine (expFrac_le _ _ _).trans ?_
    rw [hpow, Real.exp_le_exp, scaled_exponent]
    refine mul_le_mul_of_nonneg_right ?_ hbnonneg
    rw [div_le_iff₀ hS, mul_comm]
    exact lnBound_le P hnum hd
  · refine le_trans ?_ (le_expFrac _ _ _)
    rw [hpow, Real.exp_le_exp, scaled_exponent]
    refine mul_le_mul_of_nonneg_right ?_ hbnonneg
    rw [le_div_iff₀ hS, mul_comm]
    exact le_lnBound P hnum hd

/-- A value above zero has its sign bit clear and is no zero. -/
theorem pos_of_zero_lt {x : F64} (h : F64.lt F64.zero x = true) :
    x.isNeg = false ∧ x.isZero = false := by
  have hkey : 0 < x.orderKey := by
    simp only [F64.lt, Bool.and_eq_true, decide_eq_true_eq] at h
    exact h.2
  rw [orderKey_eq] at hkey
  constructor
  · cases hs : x.isNeg
    · rfl
    · rw [hs, signFactor_true] at hkey; omega
  · rw [← Bool.not_eq_true, isZero_iff]
    intro h0
    rw [h0] at hkey
    simp at hkey

theorem rounded_pow {a b : F64} (hafin : a.isFinite = true) (ha : F64.lt F64.zero a = true)
    (hb : F64.lt F64.zero b = true)
    (hs : b = F64.one ∨ settled fun dir P =>
      expFrac dir P (lnBound dir P a.num a.den * (b.num : ℤ)) (b.den <<< P)) :
    Rounded ((a.toRat : ℝ) ^ (b.toRat : ℝ)) (F64.pow a b) := by
  have hnan : (a.isNaN || b.isNaN) = false := by
    simp only [F64.lt, Bool.and_eq_true, Bool.not_eq_true'] at ha hb
    rw [ha.1.2, hb.1.2]; rfl
  obtain ⟨haneg, ha0⟩ := pos_of_zero_lt ha
  obtain ⟨hbneg, -⟩ := pos_of_zero_lt hb
  rw [F64.pow, hnan, if_neg Bool.false_ne_true]
  by_cases hone : b = F64.one
  · rw [if_pos hone, hone, toRat_one, Rat.cast_one, Real.rpow_one]
    exact rounded_self hafin
  · rw [if_neg hone, ha0, if_neg Bool.false_ne_true, hafin, Bool.not_true, if_neg Bool.false_ne_true,
      haneg, if_neg Bool.false_ne_true]
    exact rounded_agree (hs.resolve_left hone) (encloses_pow haneg ha0 hbneg)

/-! ### tanh -/

theorem tanh_eq_exp (x : ℝ) : Real.tanh x = (Real.exp (2 * x) - 1) / (Real.exp (2 * x) + 1) := by
  have hx := Real.exp_pos x
  rw [Real.tanh_eq, Real.exp_neg, two_mul, Real.exp_add]
  field_simp

/-- From 32 up the tangent is within half a unit of 1. -/
theorem rounded_tanh_of_large {v : ℝ} (h : 32 ≤ v) : Rounded (Real.tanh v) F64.one := by
  have hlo := rounded_round false (2 ^ 60 - 1) (d := 2 ^ 60) (by positivity) rfl
  rw [show F64.round false (2 ^ 60 - 1) (2 ^ 60) = F64.one by decide +kernel] at hlo
  have hhi := rounded_self one_isFinite
  rw [toRat_one, Rat.cast_one] at hhi
  have hexp : (2 : ℝ) ^ 64 ≤ Real.exp (2 * v) := by
    calc (2 : ℝ) ^ 64 ≤ Real.exp 1 ^ 64 :=
          pow_le_pow_left₀ (by norm_num) (Real.exp_one_gt_d9.le.trans' (by norm_num)) _
      _ = Real.exp 64 := by rw [← Real.exp_nat_mul]; norm_num
      _ ≤ _ := Real.exp_le_exp.mpr (by linarith)
  refine hlo.between hhi (by norm_num) ?_ (Real.tanh_lt_one v).le
  rw [tanh_eq_exp, signFactor_false, le_div_iff₀ (by positivity)]
  norm_num
  linarith

theorem tanh_le_self {x : ℝ} (hx : 0 ≤ x) : Real.tanh x ≤ x := by
  have h0 : 0 ≤ Real.tanh x := by
    rw [tanh_eq_exp]
    have := Real.one_le_exp (show 0 ≤ 2 * x by linarith)
    exact div_nonneg (by linarith) (by linarith)
  have h := atanhSum_le_artanh h0 (Real.tanh_lt_one x) 0
  simpa [atanhSum, atanhTerm, Real.artanh_tanh] using h

theorem sub_cube_le_tanh {x : ℝ} (hx : 0 ≤ x) : x - x ^ 3 ≤ Real.tanh x := by
  have hsinh : x ≤ Real.sinh x := Real.self_le_sinh_iff.mpr hx
  have hcosh := Real.cosh_pos x
  have hprod : (1 - x ^ 2) * Real.cosh x ≤ 1 := by
    rcases le_total (1 - x ^ 2) 0 with h | h
    · exact (mul_nonpos_of_nonpos_of_nonneg h hcosh.le).trans zero_le_one
    calc (1 - x ^ 2) * Real.cosh x ≤ Real.exp (-x ^ 2) * Real.exp (x ^ 2 / 2) :=
          mul_le_mul (Real.one_sub_le_exp_neg _) (Real.cosh_le_exp_half_sq x) hcosh.le
            (Real.exp_nonneg _)
      _ = Real.exp (-x ^ 2 / 2) := by rw [← Real.exp_add]; congr 1; ring
      _ ≤ 1 := Real.exp_le_one_iff.mpr (by nlinarith [sq_nonneg x])
  rw [Real.tanh_eq_sinh_div_cosh, le_div_iff₀ hcosh]
  calc (x - x ^ 3) * Real.cosh x = x * ((1 - x ^ 2) * Real.cosh x) := by ring
    _ ≤ x * 1 := mul_le_mul_of_nonneg_left hprod hx
    _ ≤ Real.sinh x := by rwa [mul_one]

/-- The fraction `(e - 1) / (e + 1)` grows with `e`. -/
theorem tanhFrac_mono {e E : ℝ} (he : 0 ≤ e) (h : e ≤ E) : (e - 1) / (e + 1) ≤ (E - 1) / (E + 1) := by
  rw [div_le_div_iff₀ (by linarith) (by linarith)]
  nlinarith

/-- The fraction at scale `2 ^ P`. -/
theorem scaled_tanhFrac {P e : ℕ} (he : 2 ^ P ≤ e) :
    ((e - 1 <<< P : ℕ) : ℝ) / ((e + 1 <<< P : ℕ) : ℝ) = (e / 2 ^ P - 1) / (e / 2 ^ P + 1) := by
  have hS : (2 : ℝ) ^ P ≠ 0 := by positivity
  rw [Nat.one_shiftLeft, Nat.cast_sub he, Nat.cast_add, Nat.cast_pow, Nat.cast_ofNat,
    div_sub_one hS, div_add_one hS, div_div_div_cancel_right₀ hS]

theorem encloses_tanh (p : ℕ) {d : ℕ} (hd : d ≠ 0) (P : ℕ) :
    Encloses (fun dir P => tanhFrac dir P p d) (Real.tanh ((p : ℝ) / d)) P := by
  have hd' : (0 : ℝ) < d := by exact_mod_cast Nat.pos_of_ne_zero hd
  have hx : (0 : ℝ) ≤ (p : ℝ) / d := by positivity
  by_cases hsmall : p <<< 28 < d
  · have hpd : p ≤ d := by
      rw [Nat.shiftLeft_eq] at hsmall
      omega
    have hcube : ((p * (d * d - p * p) : ℕ) : ℝ) / ((d * (d * d) : ℕ) : ℝ) =
        (p : ℝ) / d - ((p : ℝ) / d) ^ 3 := by
      rw [Nat.cast_mul, Nat.cast_sub (Nat.mul_le_mul hpd hpd)]
      push_cast
      field_simp
    constructor <;> simp only [tanhFrac, if_pos hsmall, if_true, one_ne_zero, if_false]
    · exact Nat.mul_ne_zero hd (Nat.mul_ne_zero hd hd)
    · exact hd
    · rw [hcube]; exact sub_cube_le_tanh hx
    · exact tanh_le_self hx
  · have hS : (0 : ℝ) < 2 ^ P := by positivity
    have htwo : ((2 * p : ℕ) : ℝ) / d = 2 * ((p : ℝ) / d) := by push_cast; ring
    have hlo := expBound_le P (2 * p) d
    have hhi := le_expBound P (2 * p) d
    rw [htwo] at hlo hhi
    have hne : ∀ e : ℕ, e + 1 <<< P ≠ 0 := fun e => by
      rw [Nat.one_shiftLeft]; positivity
    constructor <;> simp only [tanhFrac, if_neg hsmall]
    · exact hne _
    · exact hne _
    · rw [scaled_tanhFrac (two_pow_le_expBound _ _ _ _), tanh_eq_exp]
      exact tanhFrac_mono (by positivity) (by rwa [div_le_iff₀ hS, mul_comm (Real.exp _)])
    · rw [scaled_tanhFrac (two_pow_le_expBound _ _ _ _), tanh_eq_exp]
      exact tanhFrac_mono (Real.exp_nonneg _) (by rwa [le_div_iff₀ hS, mul_comm (Real.exp _)])

theorem tanh_signFactor_mul (s : Bool) (v : ℝ) :
    Real.tanh (signFactor s * v) = signFactor s * Real.tanh v := by
  cases s <;> simp [Real.tanh_neg]

/-- The magnitude that `agree` finds is a magnitude pattern. -/
theorem agree_lt (enc : ℕ → ℕ → ℕ × ℕ) (l : List ℕ) : agree enc l < 2 ^ 63 := by
  have htop : top64 < 2 ^ 63 := by decide
  induction l with
  | nil => exact Nat.two_pow_pos 63
  | cons P more ih =>
    have h0 := (roundMag_le_top 52 1074 top64 (enc 0 P).1 (enc 0 P).2).trans_lt htop
    have h1 := (roundMag_le_top 52 1074 top64 (enc 1 P).1 (enc 1 P).2).trans_lt htop
    rw [agree.eq_def]
    dsimp only
    split
    · exact h0
    · cases more with
      | nil => dsimp only; split <;> assumption
      | cons _ _ => exact ih

theorem rounded_tanh {x : F64} (hx : x.isFinite = true)
    (hs : settled fun dir P => tanhFrac dir P x.num x.den) :
    Rounded (Real.tanh x.toRat) (F64.tanh x) := by
  rw [F64.tanh, if_neg (by rw [not_isNaN_of_isFinite hx]; decide)]
  by_cases hz : x.isZero = true
  · have := rounded_self hx
    rw [if_pos hz, toRat_of_isZero hz, Rat.cast_zero, Real.tanh_zero]
    rwa [toRat_of_isZero hz, Rat.cast_zero] at this
  rw [if_neg hz, toRat_real_num_den, tanh_signFactor_mul]
  by_cases hbig : (!x.isFinite || decide (32 * x.den ≤ x.num)) = true
  · have hquot := (large_test hx 32).mp hbig
    rw [if_pos hbig]
    have hone : pack false one.bits.toNat = one := by decide
    exact Rounded.signed (by decide) (hone ▸ rounded_tanh_of_large (by exact_mod_cast hquot)) _
  · rw [if_neg hbig]
    exact (rounded_agree hs (encloses_tanh x.num (den_ne_zero x))).signed (agree_lt _ _) _

/-! ### pi -/

theorem rounded_pi : Rounded Real.pi F64.pi := by
  have hlo := rounded_round false 314159265358979323846 (d := 10 ^ 20) (by positivity) rfl
  have hhi := rounded_round false 314159265358979323847 (d := 10 ^ 20) (by positivity) rfl
  rw [show F64.round false 314159265358979323846 (10 ^ 20) = F64.pi by decide +kernel] at hlo
  rw [show F64.round false 314159265358979323847 (10 ^ 20) = F64.pi by decide +kernel] at hhi
  refine hlo.between hhi (by norm_num) ?_ ?_
  · refine (le_of_eq ?_).trans Real.pi_gt_d20.le
    norm_num
  · refine Real.pi_lt_d20.le.trans (le_of_eq ?_)
    norm_num

/-! ### sqrt -/

/-- The digits found are the integer root, wherever they start from below it. -/
theorem isqrtDigits_spec (v n r : ℕ) (hlo : r * r ≤ v) (hhi : v < (r + 2 ^ n) * (r + 2 ^ n)) :
    isqrtDigits v n r * isqrtDigits v n r ≤ v ∧
      v < (isqrtDigits v n r + 1) * (isqrtDigits v n r + 1) := by
  induction n generalizing r with
  | zero => exact ⟨hlo, hhi⟩
  | succ n ih =>
    simp only [isqrtDigits]
    split
    · rename_i hle
      refine ih _ hle ?_
      rwa [Nat.add_assoc, ← two_mul, ← Nat.pow_succ']
    · rename_i hgt
      exact ih _ hlo (not_le.mp hgt)

/-- Two whole numbers of units `2 ^ k` compare as the numbers do. -/
theorem le_of_units {m n k : ℕ} {a b : ℝ} (ha : a = m * 2 ^ k) (hb : b = n * 2 ^ k) (h : a ≤ b) :
    m ≤ n := by
  rw [ha, hb, mul_le_mul_iff_left₀ (by positivity)] at h
  exact_mod_cast h

/-- Where an odd number of units `2 ^ k` has two bits to drop below the rounding position, every number
strictly between the even ones around it rounds as it does: all the boundaries are even. -/
theorem roundsAt_of_odd {f k e q r : ℕ} {w : ℝ}
    (h : RoundsAt f (((2 * r + 1 : ℕ) : ℝ) * 2 ^ k) e q) (hr : 2 ^ (f + 3) ≤ 2 * r + 1)
    (hlo : 2 * (r : ℝ) < w) (hhi : w < 2 * (r : ℝ) + 2) : RoundsAt f (w * 2 ^ k) e q := by
  have hS : (0 : ℝ) < 2 ^ k := by positivity
  obtain ⟨t, rfl⟩ : ∃ t, e = k + t + 2 := by
    have hlt : (2 : ℝ) ^ (f + 3 + k) < 2 ^ (f + 1 + e) := by
      refine lt_of_le_of_lt ?_ h.upper
      rw [pow_add _ (f + 3)]
      exact mul_le_mul_of_nonneg_right (by exact_mod_cast hr) hS.le
    have := (pow_lt_pow_iff_right₀ one_lt_two).mp hlt
    exact ⟨e - (k + 2), by omega⟩
  have hunit : (2 : ℝ) ^ (k + t + 2) = ((4 * 2 ^ t : ℕ) : ℝ) * 2 ^ k := by push_cast; ring
  have hbin : ∀ n, (2 : ℝ) ^ (n + (k + t + 2)) = ((2 * 2 ^ (n + t + 1) : ℕ) : ℝ) * 2 ^ k := fun n => by
    push_cast; ring
  obtain ⟨hnormal, hle, hlower, hupper, habove, hbelow, -⟩ := h
  have hlower := hlower.resolve_left (by omega)
  rw [hbin, mul_le_mul_iff_left₀ hS, Nat.cast_le] at hlower
  rw [hbin, mul_lt_mul_iff_left₀ hS, Nat.cast_lt] at hupper
  rw [hunit] at habove hbelow
  generalize 2 ^ t = T at *
  have habove' : 4 * (q * T) ≤ 2 * r + 2 * T := by
    have := le_of_units (m := 8 * (q * T)) (n := 2 * (2 * r + 1) + 4 * T) (by push_cast; ring)
      (by push_cast; ring) habove
    omega
  have hbelow' : 2 * r + 2 ≤ 4 * (q * T) + 2 * T := by
    have := le_of_units (m := 2 * (2 * r + 1)) (n := 8 * (q * T) + 4 * T) (by push_cast; ring)
      (by push_cast; ring) hbelow
    omega
  have habove'' : 4 * ((q : ℝ) * T) < w + 2 * T := by
    have : 4 * ((q : ℝ) * T) ≤ 2 * r + 2 * T := by exact_mod_cast habove'
    linarith
  have hbelow'' : w < 4 * ((q : ℝ) * T) + 2 * T := by
    have : 2 * (r : ℝ) + 2 ≤ 4 * (q * T) + 2 * T := by exact_mod_cast hbelow'
    linarith
  have hstrictAbove := mul_lt_mul_of_pos_right habove'' hS
  have hstrictBelow := mul_lt_mul_of_pos_right hbelow'' hS
  refine ⟨hnormal, hle, .inr ?_, ?_, ?_, ?_, ?_⟩
  · rw [hbin]
    refine mul_le_mul_of_nonneg_right (le_trans ?_ hlo.le) hS.le
    exact_mod_cast show 2 * 2 ^ (f + t + 1) ≤ 2 * r by omega
  · rw [hbin]
    refine mul_lt_mul_of_pos_right (hhi.trans_le ?_) hS
    exact_mod_cast show 2 * r + 2 ≤ 2 * 2 ^ (f + 1 + t + 1) by omega
  all_goals
    rw [hunit]
    push_cast
  · linarith
  · linarith
  · rintro (h | h) <;> exfalso <;> linarith

/-- A root with its sticky bit: a number strictly between two even significands is rounded through the
odd one between them. -/
theorem rounded_sticky {r a b : ℕ} {w v : ℝ} (hab : b ≤ a + 1074) (hr : 2 ^ 55 ≤ 2 * r + 1)
    (hlo : 2 * (r : ℝ) < w) (hhi : w < 2 * (r : ℝ) + 2) (hv : v = w * 2 ^ ((a : ℤ) - b)) :
    Rounded v (roundScaled false (2 * r + 1) a b) := by
  obtain ⟨e, q, hround, hat⟩ := roundMag_roundsAt 52 1074 top64 ((2 * r + 1) <<< (a - b))
    (one_shiftLeft_ne_zero (b - a))
  have hunits : (2 : ℝ) ^ ((a : ℤ) - b) = 2 ^ (a + 1074 - b) * 2 ^ (-1074 : ℤ) :=
    two_zpow_eq_mul (by omega)
  have hV : (((2 * r + 1) <<< (a - b) : ℕ) : ℝ) * (2 : ℝ) ^ 1074 / ((1 <<< (b - a) : ℕ) : ℝ) =
      ((2 * r + 1 : ℕ) : ℝ) * 2 ^ (a + 1074 - b) := by
    have hone : (2 : ℝ) ^ (-1074 : ℤ) * 2 ^ 1074 = 1 := by
      rw [mul_comm, ← two_pow_eq_mul_zpow (n := 0) (by norm_num), pow_zero]
    rw [mul_div_right_comm, shift_div_shift, hunits, mul_assoc, mul_assoc, hone, mul_one]
  rw [hV] at hat
  rw [roundScaled, F64.round, hround]
  refine rounded_pack (roundsAt_of_odd hat hr hlo hhi) ?_ false ?_
  · exact mul_nonneg ((mul_nonneg zero_le_two (Nat.cast_nonneg r)).trans hlo.le) (pow_nonneg zero_le_two _)
  · rw [hv, hunits, signFactor_false, Int.cast_one, one_mul, mul_assoc]

/-- The root of an integer, doubled, rounded from its integer root and the sticky bit. -/
theorem rounded_isqrt {v r a b : ℕ} {z : ℝ} (hlo : r * r ≤ v) (hhi : v < (r + 1) * (r + 1))
    (hr : 2 ^ 55 ≤ r) (hab : b ≤ a + 1074) (hz : z = 2 * √(v : ℝ) * 2 ^ ((a : ℤ) - b)) :
    Rounded z (roundScaled false (2 * r + if r * r = v then 0 else 1) a b) := by
  split
  · rename_i hexact
    refine rounded_roundScaled false _ a b ?_
    rw [hz, ← hexact, Nat.cast_mul, Real.sqrt_mul_self (Nat.cast_nonneg r), signFactor_false]
    push_cast
    ring
  · rename_i hne
    have hlt : r * r < v := lt_of_le_of_ne hlo hne
    refine rounded_sticky hab (by omega) ?_ ?_ hz
    · have : (r : ℝ) < √(v : ℝ) := Real.lt_sqrt_of_sq_lt (by rw [sq]; exact_mod_cast hlt)
      linarith
    · have : √(v : ℝ) < r + 1 := by
        rw [Real.sqrt_lt' (by positivity), sq]
        exact_mod_cast hhi
      linarith

/-- A value that is not below zero is a zero or has its sign bit clear. -/
theorem isNeg_eq_false_of_ge_zero {x : F64} (h : F64.ge x F64.zero = true) (h0 : x.isZero = false) :
    x.isNeg = false := by
  have hkey : 0 ≤ x.orderKey := by
    simp only [F64.ge, Bool.and_eq_true, decide_eq_true_eq] at h
    exact h.2
  have hmag : x.mag ≠ 0 := fun hm => by simp [(isZero_iff x).mpr hm] at h0
  rw [orderKey_eq] at hkey
  cases hs : x.isNeg
  · rfl
  · rw [hs, signFactor_true] at hkey; omega

/-- The scaled significand of a positive value lies where its root has 56 to 84 bits. -/
theorem sqrt_scaled_bounds {x : F64} (h0 : x.isZero = false) :
    2 ^ 110 ≤ x.mant <<< (110 + (x.scale + 1) % 2) ∧
      x.mant <<< (110 + (x.scale + 1) % 2) < 2 ^ 84 * 2 ^ 84 := by
  have hpos := Nat.pos_of_ne_zero (mant_ne_zero h0)
  have hlt := x.mant_lt
  have hw : (x.scale + 1) % 2 = 0 ∨ (x.scale + 1) % 2 = 1 := by omega
  generalize x.mant = m at *
  rw [Nat.shiftLeft_eq]
  rcases hw with hw | hw <;> rw [hw] <;> omega

/-- The value as the scaled significand times an even power of two. -/
theorem toRat_eq_sqrt_scaled {x : F64} (hs : x.isNeg = false) :
    (x.toRat : ℝ) = ((x.mant <<< (110 + (x.scale + 1) % 2) : ℕ) : ℝ) *
      (2 ^ ((((x.scale - (x.scale + 1) % 2 + 1185) / 2 : ℕ) : ℤ) - 1185)) ^ 2 := by
  have h1 := x.one_le_scale
  rw [toRat_real_mant, hs, signFactor_false, Int.cast_one, one_mul, Nat.shiftLeft_eq, Nat.cast_mul,
    Nat.cast_pow, Nat.cast_ofNat, mul_assoc, ← zpow_natCast _ 2, ← zpow_mul]
  congr 1
  exact two_zpow_eq_mul (by omega)

theorem rounded_sqrt {x : F64} (hx : x.isFinite = true) (h : F64.ge x F64.zero = true) :
    Rounded (√(x.toRat : ℝ)) (F64.sqrt x) := by
  rw [F64.sqrt, if_neg (by rw [not_isNaN_of_isFinite hx]; decide)]
  by_cases hz : x.isZero = true
  · have := rounded_self hx
    rw [if_pos hz, toRat_of_isZero hz, Rat.cast_zero, Real.sqrt_zero]
    rwa [toRat_of_isZero hz, Rat.cast_zero] at this
  have h0 := Bool.not_eq_true _ ▸ hz
  have hs := isNeg_eq_false_of_ge_zero h h0
  rw [if_neg hz, hs, if_neg Bool.false_ne_true, hx, Bool.not_true, if_neg Bool.false_ne_true]
  obtain ⟨hge, hlt⟩ := sqrt_scaled_bounds h0
  have hroot := toRat_eq_sqrt_scaled hs
  have hscale := x.one_le_scale
  dsimp only
  generalize x.mant <<< (110 + (x.scale + 1) % 2) = v at *
  obtain ⟨hlo, hhi⟩ := isqrtDigits_spec v 84 0 (Nat.zero_le v) (by rwa [Nat.zero_add])
  generalize isqrtDigits v 84 0 = r at *
  have ha : 593 ≤ (x.scale - (x.scale + 1) % 2 + 1185) / 2 := by omega
  generalize (x.scale - (x.scale + 1) % 2 + 1185) / 2 = a at *
  refine rounded_isqrt hlo hhi ?_ (by omega) ?_
  · by_contra hsmall
    have : (r + 1) * (r + 1) ≤ 2 ^ 55 * 2 ^ 55 := Nat.mul_le_mul (by omega) (by omega)
    omega
  · rw [hroot, Real.sqrt_mul (Nat.cast_nonneg v), Real.sqrt_sq (two_zpow_pos _).le, mul_comm 2,
      mul_assoc]
    congr 1
    rw [two_zpow_eq_mul (n := 1) (j := (a : ℤ) - 1185) (k := (a : ℤ) - (1186 : ℕ)) (by omega), pow_one]

/-- Settles O54: each function rounds once, a root from its exact digits, the others from two bounds
that have one rounding. -/
theorem elementaryFunctionsAreRounded : Obligations.ElementaryFunctionsAreRounded :=
  ⟨fun _ hx h => rounded_sqrt hx h, fun _ hx hs => rounded_exp hx hs, fun _ hx hs => rounded_tanh hx hs,
    fun _ _ hafin ha hb _ hs => rounded_pow hafin ha hb hs, rounded_pi⟩

end Sys2Proof.Machine

end


/-! ## What a setter stores (rules R22, R23, R27, R36, R116 to R122, R150 to R154 and R180 to R182) -/

section

namespace Sys2Proof.Machine

open F64

/-- `max` of finite values is at least its second operand. -/
theorem ge_max_right {a b : F64} (ha : a.isFinite = true) (hb : b.isFinite = true) :
    F64.ge (F64.max a b) b = true := by
  rw [ge_iff (max_isFinite ha hb) hb, toRat_max ha hb]
  exact le_max_right _ _

/-- The floored rate is a legal one. -/
theorem rateLegal_max {w : Word} (hw : f32Finite w = true) :
    rateLegal (some (F64.max (F64.ofF32 w) params.srMin)) = true := by
  have hfin := F64.ofF32_isFinite hw
  simp [rateLegal, max_isFinite hfin srMin_isFinite, ge_max_right hfin srMin_isFinite]

theorem oscSetRate_ofF32 {w : Word} (hw : f32Finite w = true) (o : Osc) :
    oscSetRate params (F64.ofF32 w) o =
      { unit := { o with sampleRate := some (F64.max (F64.ofF32 w) params.srMin) }
        overflow := false } := by
  have hfin := max_isFinite (F64.ofF32_isFinite hw) srMin_isFinite
  simp [oscSetRate, storedRate, written_of_finite hfin, hfin]

theorem oscSetFrequency_ofF32 {w : Word} (hw : f32Finite w = true) (o : Osc) :
    oscSetFrequency params (F64.ofF32 w) o =
      { unit := { o with
          frequency := F64.max (F64.ofF32 w) params.freqMin
          targetFrequency := F64.max (F64.ofF32 w) params.freqMin
          glideSteps := 0, glideMult := F64.one, phase := F64.zero, subPhase := F64.zero }
        overflow := false } := by
  have hfin := max_isFinite (F64.ofF32_isFinite hw) freqMin_isFinite
  simp [oscSetFrequency, written_of_finite hfin, hfin]

/-- A value clamped into `[0, 1]` lies there. -/
theorem inUnit_clamp {x : F64} (hx : x.isFinite = true) :
    inUnit (F64.clamp x F64.zero F64.one) = true := by
  have hmax := max_isFinite hx zero_isFinite
  rw [inUnit_iff, F64.clamp, toRat_min hmax one_isFinite, toRat_max hx zero_isFinite, toRat_zero,
    toRat_one]
  exact ⟨min_isFinite hmax one_isFinite, le_min (le_max_right _ _) zero_le_one, min_le_right _ _⟩

theorem isFinite_of_inUnit {x : F64} (h : inUnit x = true) : x.isFinite = true :=
  ((inUnit_iff x).mp h).1

theorem clamp_unit_isFinite {x : F64} (hx : x.isFinite = true) :
    (F64.clamp x F64.zero F64.one).isFinite = true := isFinite_of_inUnit (inUnit_clamp hx)

theorem oscSetBlend_ofF32 {w : Word} (hw : f32Finite w = true) (o : Osc) :
    oscSetBlend binary64 (F64.ofF32 w) o =
      { unit := { o with blend := F64.clamp (F64.ofF32 w) F64.zero F64.one }, overflow := false } := by
  have hfin := clamp_unit_isFinite (F64.ofF32_isFinite hw)
  simp [oscSetBlend, written_of_finite hfin, hfin]

theorem oscSetSubBlend_ofF32 {w : Word} (hw : f32Finite w = true) (o : Osc) :
    oscSetSubBlend binary64 (F64.ofF32 w) o =
      { unit := { o with subBlend := F64.clamp (F64.ofF32 w) F64.zero F64.one }
        overflow := false } := by
  have hfin := clamp_unit_isFinite (F64.ofF32_isFinite hw)
  simp [oscSetSubBlend, written_of_finite hfin, hfin]

/-- A derived coefficient after one of its parameters was stored: recomputed where the rate is set, the
old one where it is `unset` (rule R41). -/
def recomputed (rate : Option F64) (old : F64) (coef : F64 → F64) : F64 :=
  match rate with
  | none => old
  | some sr => written (coef sr)

@[simp] theorem recomputed_none (old : F64) (coef : F64 → F64) : recomputed none old coef = old := rfl

@[simp] theorem recomputed_some (sr old : F64) (coef : F64 → F64) :
    recomputed (some sr) old coef = written (coef sr) := rfl

/-- The coefficients in the terms of the statements. -/
theorem attackIncOf_binary64 (sr ms : F64) :
    attackIncOf binary64 sr ms =
      F64.div F64.one (F64.max F64.one (F64.div (F64.mul ms sr) (F64.ofNat 1000))) := rfl

theorem decayCoefOf_params (sr ms : F64) :
    decayCoefOf params sr ms =
      F64.exp (F64.div (F64.neg F64.one)
        (F64.mul (F64.mul (F64.dec 1 3) (F64.max ms params.tMinMs)) sr)) := rfl

theorem aenvSetRate_ofF32 {w : Word} (hw : f32Finite w = true) (a : Aenv) :
    aenvSetRate params (F64.ofF32 w) a =
      let sr := F64.max (F64.ofF32 w) params.srMin
      { unit := { a with
          sampleRate := some sr
          attackInc := written (attackIncOf binary64 sr a.attackMs)
          decayCoef := written (decayCoefOf params sr a.decayMs)
          releaseCoef := written (decayCoefOf params sr a.releaseMs) }
        overflow := anyNonfinite binary64 [attackIncOf binary64 sr a.attackMs,
          decayCoefOf params sr a.decayMs, decayCoefOf params sr a.releaseMs] } := by
  have hfin := max_isFinite (F64.ofF32_isFinite hw) srMin_isFinite
  simp [aenvSetRate, storedRate, written_of_finite hfin, hfin]

theorem aenvSetAttack_unit (v : F64) (a : Aenv) :
    (aenvSetAttack binary64 v a).unit =
      { a with
        attackMs := v
        attackInc := recomputed a.sampleRate a.attackInc fun sr => attackIncOf binary64 sr v } := by
  unfold aenvSetAttack; split <;> simp [*]

theorem aenvSetDecay_unit (v : F64) (a : Aenv) :
    (aenvSetDecay params v a).unit =
      { a with
        decayMs := v
        decayCoef := recomputed a.sampleRate a.decayCoef fun sr => decayCoefOf params sr v } := by
  unfold aenvSetDecay; split <;> simp [*]

theorem aenvSetRelease_unit (v : F64) (a : Aenv) :
    (aenvSetRelease params v a).unit =
      { a with
        releaseMs := v
        releaseCoef := recomputed a.sampleRate a.releaseCoef fun sr => decayCoefOf params sr v } := by
  unfold aenvSetRelease; split <;> simp [*]

theorem menvSetRate_ofF32 {w : Word} (hw : f32Finite w = true) (m : Menv) :
    menvSetRate params (F64.ofF32 w) m =
      let sr := F64.max (F64.ofF32 w) params.srMin
      { unit := { m with
          sampleRate := some sr, decayCoef := written (decayCoefOf params sr m.decayMs) }
        overflow := anyNonfinite binary64 [decayCoefOf params sr m.decayMs] } := by
  have hfin := max_isFinite (F64.ofF32_isFinite hw) srMin_isFinite
  simp [menvSetRate, storedRate, written_of_finite hfin, hfin]

theorem menvSetDecay_unit (v : F64) (m : Menv) :
    (menvSetDecay params v m).unit =
      { m with
        decayMs := v
        decayCoef := recomputed m.sampleRate m.decayCoef fun sr => decayCoefOf params sr v } := by
  unfold menvSetDecay; split <;> simp [*]

/-- What a filter setter does to the derived registers. -/
theorem reconfigureFilt_unit (f : Filt) :
    ∃ fc b0 k g : F64 → F64, (reconfigureFilt params f).unit =
      { f with
        fc := recomputed f.sampleRate f.fc fc
        coefs := { b0 := recomputed f.sampleRate f.coefs.b0 b0
                   k := recomputed f.sampleRate f.coefs.k k
                   g := recomputed f.sampleRate f.coefs.g g } } := by
  cases hsr : f.sampleRate with
  | none => exact ⟨id, id, id, id, by rw [reconfigureFilt_unset hsr]; cases f; cases hsr; rfl⟩
  | some sr =>
    let fc := clampCutoff binary64 sr f.cutoff
    let c := params.coef (written fc) sr (skewedResonance binary64 f.resonance)
    exact ⟨fun _ => fc, fun _ => c.b0, fun _ => c.k, fun _ => c.g, by
      simp [reconfigureFilt_set hsr, configureFilt_params, fc, c, hsr]⟩

end Sys2Proof.Machine

end


/-! ## What a command can do (rules R24, R28, R32, R34 and R38)

For every unit the ways in which a command changes it, the operand and rate checks it passed included;
then one inversion theorem for all commands.  The frames and the invariants are read off from it. -/

section

namespace Sys2Proof.Machine

open F64

/-! ### The sample bodies -/

/-- The frequency that a sample is formed with: step 1 of rule R124. -/
def sampleFrequency (o : Osc) : F64 :=
  if o.glideSteps = 0 then o.frequency else written (glidedFrequency binary64 o)

/-- What the body of OSC_PROC writes. -/
theorem oscProcess_unit (sr : F64) (o : Osc) :
    (oscProcess params sr o).unit =
      { o with
        phase := written (F64.frac (F64.add o.phase (F64.div (sampleFrequency o) sr)))
        subPhase := written (F64.frac
          (F64.add o.subPhase (F64.div (F64.div (sampleFrequency o) sr) (F64.ofNat 2))))
        frequency := sampleFrequency o
        glideSteps := o.glideSteps - 1
        out := written (oscProcess params sr o).sample } := by
  simp only [oscProcess, params_num, glideStep_binary64]
  rfl

/-- What the body of AENV_PROC writes: level and stage. -/
theorem aenvProcess_unit (a : Aenv) :
    (aenvProcess binary64 a).unit =
      { a with
        level := (aenvProcess binary64 a).unit.level
        stage := (aenvProcess binary64 a).unit.stage } := by
  cases h : a.stage with
  | idle => rw [aenvProcess_idle h]
  | attack => rw [aenvProcess_attack h, aenvRise_binary64]; dsimp only; split <;> rfl
  | decay => rw [aenvProcess_decay h, aenvFall_binary64]; dsimp only; split <;> rfl
  | release => rw [aenvProcess_release h, aenvFall_binary64]; dsimp only; split <;> rfl

/-! ### The ways in which a unit changes -/

/-- What a command may do to the oscillator. -/
inductive OscStep : Instr → Osc → Osc → Prop
  | keep (i : Instr) (o : Osc) : OscStep i o o
  | reset (o : Osc) : OscStep .reset o State.reset.osc
  | rate {hz : Word} (o : Osc) (hw : f32Finite hz = true) :
      OscStep (.oscSr hz) o { o with sampleRate := some (F64.max (F64.ofF32 hz) params.srMin) }
  | frequency {hz : Word} (o : Osc) (hw : f32Finite hz = true) :
      OscStep (.oscFreq hz) o
        { o with
          frequency := F64.max (F64.ofF32 hz) params.freqMin
          targetFrequency := F64.max (F64.ofF32 hz) params.freqMin
          glideSteps := 0, glideMult := F64.one, phase := F64.zero, subPhase := F64.zero }
  | glide {hz ms : Word} (o : Osc) (hw : f32Finite hz = true) (exponent length : F64) :
      OscStep (.oscGlide hz ms) o
        { o with
          glideMult := written (F64.pow
            (F64.div (F64.max (F64.ofF32 hz) params.freqMin) o.frequency) exponent)
          targetFrequency := F64.max (F64.ofF32 hz) params.freqMin
          glideSteps := F64.ceilCount params.glideCntMax length }
  | wave {w : Word} (o : Osc) (square : Bool) :
      OscStep (.oscWave w) o { o with blend := if square then F64.zero else F64.one }
  | blend {b : Word} (o : Osc) (hw : f32Finite b = true) :
      OscStep (.oscBlend b) o { o with blend := F64.clamp (F64.ofF32 b) F64.zero F64.one }
  | subBlend {b : Word} (o : Osc) (hw : f32Finite b = true) :
      OscStep (.oscSubblend b) o { o with subBlend := F64.clamp (F64.ofF32 b) F64.zero F64.one }
  | jc303 {w : Word} (o : Osc) (on : Bool) : OscStep (.oscJc303 w) o { o with jc303 := on }
  | resetPhase (o : Osc) :
      OscStep .oscPhrst o { o with phase := F64.zero, subPhase := F64.zero }
  | process {i : Instr} (o : Osc) (hi : i = .oscProc ∨ ∃ fm, i = .tick fm) {sr : F64}
      (hsr : o.sampleRate = some sr) : OscStep i o (oscProcess params sr o).unit

/-- What a command may do to the amplitude envelope. -/
inductive AenvStep : Instr → Aenv → Aenv → Prop
  | keep (i : Instr) (a : Aenv) : AenvStep i a a
  | reset (a : Aenv) : AenvStep .reset a State.reset.aenv
  | rate {hz : Word} (a : Aenv) (hw : f32Finite hz = true) :
      AenvStep (.aenvSr hz) a
        { a with
          sampleRate := some (F64.max (F64.ofF32 hz) params.srMin)
          attackInc := written
            (attackIncOf binary64 (F64.max (F64.ofF32 hz) params.srMin) a.attackMs)
          decayCoef := written
            (decayCoefOf params (F64.max (F64.ofF32 hz) params.srMin) a.decayMs)
          releaseCoef := written
            (decayCoefOf params (F64.max (F64.ofF32 hz) params.srMin) a.releaseMs) }
  | attack {ms : Word} (a : Aenv) (hw : f32Finite ms = true) :
      AenvStep (.aenvAtk ms) a
        { a with
          attackMs := F64.ofF32 ms
          attackInc := recomputed a.sampleRate a.attackInc
            fun sr => attackIncOf binary64 sr (F64.ofF32 ms) }
  | decay {ms : Word} (a : Aenv) (hw : f32Finite ms = true) :
      AenvStep (.aenvDec ms) a
        { a with
          decayMs := F64.ofF32 ms
          decayCoef := recomputed a.sampleRate a.decayCoef
            fun sr => decayCoefOf params sr (F64.ofF32 ms) }
  | release {ms : Word} (a : Aenv) (hw : f32Finite ms = true) :
      AenvStep (.aenvRel ms) a
        { a with
          releaseMs := F64.ofF32 ms
          releaseCoef := recomputed a.sampleRate a.releaseCoef
            fun sr => decayCoefOf params sr (F64.ofF32 ms) }
  | noteOn (a : Aenv) :
      AenvStep .aenvOn a { a with level := F64.zero, stage := .attack, gate := true }
  | noteOff (a : Aenv) : AenvStep .aenvOff a { a with stage := .release, gate := false }
  | process {i : Instr} (a : Aenv) (hi : i = .aenvProc ∨ ∃ fm, i = .tick fm) :
      AenvStep i a (aenvProcess binary64 a).unit

/-- What a command may do to the modulation envelope. -/
inductive MenvStep : Instr → Menv → Menv → Prop
  | keep (i : Instr) (m : Menv) : MenvStep i m m
  | reset (m : Menv) : MenvStep .reset m State.reset.menv
  | rate {hz : Word} (m : Menv) (hw : f32Finite hz = true) :
      MenvStep (.menvSr hz) m
        { m with
          sampleRate := some (F64.max (F64.ofF32 hz) params.srMin)
          decayCoef := written
            (decayCoefOf params (F64.max (F64.ofF32 hz) params.srMin) m.decayMs) }
  | decay {ms : Word} (m : Menv) (hw : f32Finite ms = true) :
      MenvStep (.menvDec ms) m
        { m with
          decayMs := F64.ofF32 ms
          decayCoef := recomputed m.sampleRate m.decayCoef
            fun sr => decayCoefOf params sr (F64.ofF32 ms) }
  | trigger (m : Menv) : MenvStep .menvTrig m { m with level := F64.one }
  | process {i : Instr} (m : Menv) (hi : i = .menvProc ∨ ∃ fm, i = .tick fm) :
      MenvStep i m { m with level := written (F64.mul m.level m.decayCoef) }

/-- What a command may do to the filter. -/
inductive FiltStep : Instr → Filt → Filt → Prop
  | keep (i : Instr) (f : Filt) : FiltStep i f f
  | reset (f : Filt) : FiltStep .reset f State.reset.filt
  | rate {hz : Word} (f : Filt) (hw : f32Finite hz = true) (fc : F64) (c : Coefs) :
      FiltStep (.filtSr hz) f
        { f with
          sampleRate := some (F64.max (F64.ofF32 hz) params.srMin)
          fc := written fc, coefs := settleCoefs binary64 c }
  | cutoff {hz : Word} (f : Filt) (hw : f32Finite hz = true) (fc b0 k g : F64 → F64) :
      FiltStep (.filtCut hz) f
        { f with
          cutoff := F64.ofF32 hz
          fc := recomputed f.sampleRate f.fc fc
          coefs := { b0 := recomputed f.sampleRate f.coefs.b0 b0
                     k := recomputed f.sampleRate f.coefs.k k
                     g := recomputed f.sampleRate f.coefs.g g } }
  | resonance {r : Word} (f : Filt) (hw : f32Finite r = true) (fc b0 k g : F64 → F64) :
      FiltStep (.filtRes r) f
        { f with
          resonance := F64.max F64.zero (F64.ofF32 r)
          fc := recomputed f.sampleRate f.fc fc
          coefs := { b0 := recomputed f.sampleRate f.coefs.b0 b0
                     k := recomputed f.sampleRate f.coefs.k k
                     g := recomputed f.sampleRate f.coefs.g g } }
  | envMod {depth : Word} (f : Filt) (hw : f32Finite depth = true) :
      FiltStep (.filtEnvmod depth) f { f with envMod := F64.ofF32 depth }
  | fmAmount {depth : Word} (f : Filt) (hw : f32Finite depth = true) :
      FiltStep (.filtFmamt depth) f { f with fmAmount := F64.ofF32 depth }
  | process {i : Instr} (f : Filt)
      (hi : (∃ input env acc fm, i = .filtProc input env acc fm) ∨ ∃ fm, i = .tick fm)
      (hsr : f.sampleRate.isSome = true) (fc h out : F64) (c : Coefs) (y : Stages) :
      FiltStep i f
        { f with
          fc := written fc, coefs := settleCoefs binary64 c, hpState := written h
          y := settleStages binary64 y, out := written out }

/-- What a command may do to the sticky bits. -/
inductive StickyStep : Instr → Sticky → Sticky → Prop
  | keep (i : Instr) (t : Sticky) : StickyStep i t t
  | record (i : Instr) (e : ErrCode) (t : Sticky) : StickyStep i t (recordError e t)
  | reset (t : Sticky) : StickyStep .reset t State.reset.sticky

/-- What a command may do to the units and the sticky bits. -/
structure CommandStep (i : Instr) (s t : State) : Prop where
  osc : OscStep i s.osc t.osc
  aenv : AenvStep i s.aenv t.aenv
  menv : MenvStep i s.menv t.menv
  filt : FiltStep i s.filt t.filt
  sticky : StickyStep i s.sticky t.sticky

/-! ### The shared operations -/

/-- The outcome, if it is a next state, is one that the command may lead to. -/
def Steps (i : Instr) (s : State) (r : Result) : Prop := ∀ t, r = .next t → CommandStep i s t

theorem CommandStep.toSteps {i : Instr} {s t : State} (h : CommandStep i s t) :
    Steps i s (.next t) := by
  rintro _ ⟨⟩; exact h

theorem commandStep_refl (i : Instr) (s : State) : CommandStep i s s :=
  ⟨.keep .., .keep .., .keep .., .keep .., .keep ..⟩

theorem commandStep_emitWords (i : Instr) (ws : List Word) (s : State) :
    CommandStep i s (emitWords ws s) :=
  ⟨.keep .., .keep .., .keep .., .keep .., .keep ..⟩

theorem commandStep_dropCommand (i : Instr) (e : ErrCode) (n : Nat) (s : State) :
    CommandStep i s (dropCommand e n s) :=
  ⟨.keep .., .keep .., .keep .., .keep .., .record ..⟩

theorem commandStep_osc {i : Instr} {s : State} {o : Osc} (h : OscStep i s.osc o) :
    CommandStep i s { s with osc := o } := ⟨h, .keep .., .keep .., .keep .., .keep ..⟩

theorem commandStep_aenv {i : Instr} {s : State} {a : Aenv} (h : AenvStep i s.aenv a) :
    CommandStep i s { s with aenv := a } := ⟨.keep .., h, .keep .., .keep .., .keep ..⟩

theorem commandStep_menv {i : Instr} {s : State} {m : Menv} (h : MenvStep i s.menv m) :
    CommandStep i s { s with menv := m } := ⟨.keep .., .keep .., h, .keep .., .keep ..⟩

theorem commandStep_filt {i : Instr} {s : State} {f : Filt} (h : FiltStep i s.filt f) :
    CommandStep i s { s with filt := f } := ⟨.keep .., .keep .., .keep .., h, .keep ..⟩

theorem commandStep_units {i : Instr} {s : State} {o : Osc} {a : Aenv} {m : Menv} {f : Filt}
    (ho : OscStep i s.osc o) (ha : AenvStep i s.aenv a) (hm : MenvStep i s.menv m)
    (hf : FiltStep i s.filt f) :
    CommandStep i s { s with osc := o, aenv := a, menv := m, filt := f } := ⟨ho, ha, hm, hf, .keep ..⟩

/-- Completing a command records at most an overflow on top of its writes. -/
theorem CommandStep.complete {i : Instr} {s t : State} (h : CommandStep i s t)
    (hs : t.sticky = s.sticky) (N : Arith) (b : Bool) (out : List F64) :
    CommandStep i s (complete N b out t) := by
  obtain ⟨hosc, haenv, hmenv, hfilt, -⟩ := h
  refine ⟨by simpa, by simpa, by simpa, by simpa, ?_⟩
  rw [complete_sticky, hs]
  split
  · exact .record ..
  · exact .keep ..

theorem steps_completeOsc {i : Instr} {s : State} {u : Update Osc} (N : Arith)
    (h : OscStep i s.osc u.unit) : Steps i s (completeOsc N u s) :=
  ((commandStep_osc h).complete rfl N _ _).toSteps

theorem steps_completeAenv {i : Instr} {s : State} {u : Update Aenv} (N : Arith)
    (h : AenvStep i s.aenv u.unit) : Steps i s (completeAenv N u s) :=
  ((commandStep_aenv h).complete rfl N _ _).toSteps

theorem steps_completeMenv {i : Instr} {s : State} {u : Update Menv} (N : Arith)
    (h : MenvStep i s.menv u.unit) : Steps i s (completeMenv N u s) :=
  ((commandStep_menv h).complete rfl N _ _).toSteps

theorem steps_completeFilt {i : Instr} {s : State} {u : Update Filt} (N : Arith)
    (h : FiltStep i s.filt u.unit) : Steps i s (completeFilt N u s) :=
  ((commandStep_filt h).complete rfl N _ _).toSteps

theorem steps_withF32 {i : Instr} {n : Nat} {N : Arith} {w : Word} {s : State} {run : F64 → Result}
    (h : f32Finite w = true → Steps i s (run (N.ofF32 w))) : Steps i s (withF32 N w n s run) := by
  intro t ht
  rcases withF32_cases ht with ⟨hw, hrun⟩ | ⟨-, rfl⟩
  · exact h hw t hrun
  · exact commandStep_dropCommand ..

theorem steps_withU32 {α : Type} {i : Instr} {n : Nat} {m : Option α} {s : State} {run : α → Result}
    (h : ∀ v, Steps i s (run v)) : Steps i s (withU32 m n s run) := by
  intro t ht
  rcases withU32_cases ht with ⟨v, -, hrun⟩ | ⟨-, rfl⟩
  · exact h v t hrun
  · exact commandStep_dropCommand ..

theorem steps_withRate {i : Instr} {n : Nat} {r : Option F64} {s : State} {run : F64 → Result}
    (h : ∀ sr, r = some sr → Steps i s (run sr)) : Steps i s (withRate r n s run) := by
  intro t ht
  rcases withRate_cases ht with ⟨sr, hr, hrun⟩ | ⟨-, rfl⟩
  · exact h sr hr t hrun
  · exact commandStep_dropCommand ..

theorem steps_emitRegister (i : Instr) (N : Arith) (v : RegValue) (s : State) :
    Steps i s (.next (emitRegister N v s)) := by
  cases v with
  | u32 w => exact (commandStep_emitWords i _ s).toSteps
  | real x => exact ((commandStep_refl i s).complete rfl N _ _).toSteps

/-! ### Every command -/

theorem oscStep_rate {hz : Word} (o : Osc) (hw : f32Finite hz = true) :
    OscStep (.oscSr hz) o (oscSetRate params (F64.ofF32 hz) o).unit := by
  rw [oscSetRate_ofF32 hw]; exact .rate o hw

theorem oscStep_frequency {hz : Word} (o : Osc) (hw : f32Finite hz = true) :
    OscStep (.oscFreq hz) o (oscSetFrequency params (F64.ofF32 hz) o).unit := by
  rw [oscSetFrequency_ofF32 hw]; exact .frequency o hw

theorem oscStep_glide {hz ms : Word} (o : Osc) (hw : f32Finite hz = true) (sr t : F64) :
    OscStep (.oscGlide hz ms) o (oscGlideTo params sr (F64.ofF32 hz) t o).unit := by
  have hfin := max_isFinite (F64.ofF32_isFinite hw) freqMin_isFinite
  simp only [oscGlideTo, params_num, binary64_max, settle_binary64, written_of_finite hfin]
  exact .glide o hw _ _

theorem oscStep_blend {b : Word} (o : Osc) (hw : f32Finite b = true) :
    OscStep (.oscBlend b) o (oscSetBlend binary64 (F64.ofF32 b) o).unit := by
  rw [oscSetBlend_ofF32 hw]; exact .blend o hw

theorem oscStep_subBlend {b : Word} (o : Osc) (hw : f32Finite b = true) :
    OscStep (.oscSubblend b) o (oscSetSubBlend binary64 (F64.ofF32 b) o).unit := by
  rw [oscSetSubBlend_ofF32 hw]; exact .subBlend o hw

theorem aenvStep_rate {hz : Word} (a : Aenv) (hw : f32Finite hz = true) :
    AenvStep (.aenvSr hz) a (aenvSetRate params (F64.ofF32 hz) a).unit := by
  rw [aenvSetRate_ofF32 hw]; exact .rate a hw

theorem aenvStep_attack {ms : Word} (a : Aenv) (hw : f32Finite ms = true) :
    AenvStep (.aenvAtk ms) a (aenvSetAttack binary64 (F64.ofF32 ms) a).unit := by
  rw [aenvSetAttack_unit]; exact .attack a hw

theorem aenvStep_decay {ms : Word} (a : Aenv) (hw : f32Finite ms = true) :
    AenvStep (.aenvDec ms) a (aenvSetDecay params (F64.ofF32 ms) a).unit := by
  rw [aenvSetDecay_unit]; exact .decay a hw

theorem aenvStep_release {ms : Word} (a : Aenv) (hw : f32Finite ms = true) :
    AenvStep (.aenvRel ms) a (aenvSetRelease params (F64.ofF32 ms) a).unit := by
  rw [aenvSetRelease_unit]; exact .release a hw

theorem menvStep_rate {hz : Word} (m : Menv) (hw : f32Finite hz = true) :
    MenvStep (.menvSr hz) m (menvSetRate params (F64.ofF32 hz) m).unit := by
  rw [menvSetRate_ofF32 hw]; exact .rate m hw

theorem menvStep_decay {ms : Word} (m : Menv) (hw : f32Finite ms = true) :
    MenvStep (.menvDec ms) m (menvSetDecay params (F64.ofF32 ms) m).unit := by
  rw [menvSetDecay_unit]; exact .decay m hw

theorem filtStep_rate {hz : Word} (f : Filt) (hw : f32Finite hz = true) :
    FiltStep (.filtSr hz) f (filtSetRate params (F64.ofF32 hz) f).unit := by
  rw [filtSetRate_ofF32 hw, configureFilt_params]
  exact .rate f hw _ (Coefs.mk _ _ _)

theorem filtStep_cutoff {hz : Word} (f : Filt) (hw : f32Finite hz = true) :
    FiltStep (.filtCut hz) f (filtSetCutoff params (F64.ofF32 hz) f).unit := by
  obtain ⟨fc, b0, k, g, h⟩ := reconfigureFilt_unit { f with cutoff := F64.ofF32 hz }
  rw [filtSetCutoff, h]
  exact .cutoff f hw fc b0 k g

theorem filtStep_resonance {r : Word} (f : Filt) (hw : f32Finite r = true) :
    FiltStep (.filtRes r) f (filtSetResonance params (F64.ofF32 r) f).unit := by
  obtain ⟨fc, b0, k, g, h⟩ :=
    reconfigureFilt_unit { f with resonance := F64.max F64.zero (F64.ofF32 r) }
  rw [filtSetResonance_ofF32 hw, h]
  exact .resonance f hw fc b0 k g

theorem filtStep_process {i : Instr} {f : Filt} {sr : F64} (x : FiltInput)
    (hi : (∃ input env acc fm, i = .filtProc input env acc fm) ∨ ∃ fm, i = .tick fm)
    (hsr : f.sampleRate = some sr) : FiltStep i f (filtProcess params sr x f).unit :=
  .process f hi (by simp [hsr]) _ _ _ _ _

/-- The inversion theorem: every outcome of every command is one of the listed ways. -/
theorem exec_steps (i : Instr) (s : State) : Steps i s (exec i s) := by
  rw [exec_eq_execWith]
  cases i with
  | nop => exact (commandStep_refl _ s).toSteps
  | reset =>
    exact CommandStep.toSteps ⟨.reset s.osc, .reset s.aenv, .reset s.menv, .reset s.filt, .reset s.sticky⟩
  | tick fm =>
    simp only [execWith, execTickWith]
    exact steps_withF32 fun _ => steps_withRate fun srO hO => steps_withRate fun _ _ =>
      steps_withRate fun _ _ => steps_withRate fun srF hF =>
        ((commandStep_units (.process _ (.inr ⟨fm, rfl⟩) hO) (.process _ (.inr ⟨fm, rfl⟩))
          (.process _ (.inr ⟨fm, rfl⟩)) (filtStep_process _ (.inr ⟨fm, rfl⟩) hF)).complete
          rfl ..).toSteps
  | peek index =>
    simp only [execWith, execPeekWith]
    exact steps_withU32 fun v => steps_emitRegister _ _ v s
  | oscSr hz =>
    simp only [execWith, execOscSrWith]
    exact steps_withF32 fun hw => steps_completeOsc _ (oscStep_rate _ hw)
  | oscFreq hz =>
    simp only [execWith, execOscFreqWith]
    exact steps_withF32 fun hw => steps_completeOsc _ (oscStep_frequency _ hw)
  | oscGlide hz ms =>
    simp only [execWith, execOscGlideWith]
    exact steps_withF32 fun hw => steps_withF32 fun _ => steps_withRate fun sr _ =>
      steps_completeOsc _ (oscStep_glide _ hw sr _)
  | oscWave w =>
    simp only [execWith, execOscWaveWith]
    exact steps_withU32 fun b => (commandStep_osc (.wave _ b)).toSteps
  | oscBlend b =>
    simp only [execWith, execOscBlendWith]
    exact steps_withF32 fun hw => steps_completeOsc _ (oscStep_blend _ hw)
  | oscSubblend sb =>
    simp only [execWith, execOscSubblendWith]
    exact steps_withF32 fun hw => steps_completeOsc _ (oscStep_subBlend _ hw)
  | oscJc303 m =>
    simp only [execWith, execOscJc303]
    exact steps_withU32 fun b => (commandStep_osc (.jc303 _ b)).toSteps
  | oscPhrst => exact (commandStep_osc (.resetPhase s.osc)).toSteps
  | oscProc =>
    simp only [execWith, execOscProcWith]
    exact steps_withRate fun sr hsr =>
      ((commandStep_osc (.process _ (.inl rfl) hsr)).complete rfl ..).toSteps
  | aenvSr hz =>
    simp only [execWith, execAenvSrWith]
    exact steps_withF32 fun hw => steps_completeAenv _ (aenvStep_rate _ hw)
  | aenvAtk ms =>
    simp only [execWith, execAenvAtkWith]
    exact steps_withF32 fun hw => steps_completeAenv _ (aenvStep_attack _ hw)
  | aenvDec ms =>
    simp only [execWith, execAenvDecWith]
    exact steps_withF32 fun hw => steps_completeAenv _ (aenvStep_decay _ hw)
  | aenvRel ms =>
    simp only [execWith, execAenvRelWith]
    exact steps_withF32 fun hw => steps_completeAenv _ (aenvStep_release _ hw)
  | aenvOn => exact (commandStep_aenv (.noteOn s.aenv)).toSteps
  | aenvOff => exact (commandStep_aenv (.noteOff s.aenv)).toSteps
  | aenvProc =>
    simp only [execWith, execAenvProcWith]
    exact steps_withRate fun sr _ =>
      ((commandStep_aenv (.process _ (.inl rfl))).complete rfl ..).toSteps
  | aenvActive => exact (commandStep_emitWords _ _ s).toSteps
  | menvSr hz =>
    simp only [execWith, execMenvSrWith]
    exact steps_withF32 fun hw => steps_completeMenv _ (menvStep_rate _ hw)
  | menvDec ms =>
    simp only [execWith, execMenvDecWith]
    exact steps_withF32 fun hw => steps_completeMenv _ (menvStep_decay _ hw)
  | menvTrig => exact (commandStep_menv (.trigger s.menv)).toSteps
  | menvProc =>
    simp only [execWith, execMenvProcWith]
    exact steps_withRate fun sr _ =>
      ((commandStep_menv (.process _ (.inl rfl))).complete rfl ..).toSteps
  | filtSr hz =>
    simp only [execWith, execFiltSrWith]
    exact steps_withF32 fun hw => steps_completeFilt _ (filtStep_rate _ hw)
  | filtCut hz =>
    simp only [execWith, execFiltCutWith]
    exact steps_withF32 fun hw => steps_completeFilt _ (filtStep_cutoff _ hw)
  | filtRes r =>
    simp only [execWith, execFiltResWith]
    exact steps_withF32 fun hw => steps_completeFilt _ (filtStep_resonance _ hw)
  | filtEnvmod depth =>
    simp only [execWith, execFiltEnvmodWith]
    exact steps_withF32 fun hw => (commandStep_filt (.envMod _ hw)).toSteps
  | filtFmamt depth =>
    simp only [execWith, execFiltFmamtWith]
    exact steps_withF32 fun hw => (commandStep_filt (.fmAmount _ hw)).toSteps
  | filtProc input env acc fm =>
    simp only [execWith, execFiltProcWith]
    exact steps_withF32 fun _ => steps_withF32 fun _ => steps_withF32 fun _ => steps_withF32 fun _ =>
      steps_withRate fun sr hsr =>
        ((commandStep_filt (filtStep_process _ (.inl ⟨input, env, acc, fm, rfl⟩) hsr)).complete
          rfl ..).toSteps

/-- What one step can do to the registers, for a property of the state: it is kept if the reset input
establishes it, and taking words off the port, executing and rejecting a command keep it. -/
theorem step_keeps {p : State → Prop} (hreset : ∀ s, p (applyResetInput params s))
    (haccept : ∀ s, p s → p (acceptCommand s).2)
    (hexec : ∀ i s t, p s → exec i s = .next t → p t)
    (hreject : ∀ r s, p s → p (rejectHeader r s)) {s t : State} (hs : p s)
    (h : step s = .next t) : p t := by
  rcases stepBy_cases params exec s with ⟨-, hstep⟩ | ⟨-, ⟨-, hstep⟩ |
      ⟨_, _, -, ⟨i, -, hstep⟩ | ⟨r, -, hstep⟩⟩⟩ <;> rw [step, hstep] at h
  · cases h; exact hreset s
  · cases h; exact haccept s hs
  · exact hexec i _ t (haccept s hs) h
  · cases h; exact hreject r _ (haccept s hs)

end Sys2Proof.Machine

end


/-! ## The registers stay finite (rules R22 and R23) -/

section

namespace Sys2Proof.Machine

open F64

theorem recomputed_isFinite {old : F64} (h : old.isFinite = true) (rate : Option F64)
    (coef : F64 → F64) : (recomputed rate old coef).isFinite = true := by
  cases rate with
  | none => exact h
  | some sr => exact written_isFinite _

/-- A sample body's frequency is finite: it is the register's, or just written. -/
theorem sampleFrequency_isFinite {o : Osc} (h : o.frequency.isFinite = true) :
    (sampleFrequency o).isFinite = true := by
  unfold sampleFrequency
  split
  · exact h
  · exact written_isFinite _

/-- The body of AENV_PROC leaves a finite level. -/
theorem aenvProcess_level_isFinite {a : Aenv} (h : a.level.isFinite = true) :
    (aenvProcess binary64 a).unit.level.isFinite = true := by
  cases hst : a.stage with
  | idle => rwa [aenvProcess_idle hst]
  | attack => rw [aenvProcess_attack hst, aenvRise_binary64]; dsimp only; split <;> simp
  | decay => rw [aenvProcess_decay hst, aenvFall_binary64]; dsimp only; split <;> simp
  | release => rw [aenvProcess_release hst, aenvFall_binary64]; dsimp only; split <;> simp

/-- The part of rule R23 that concerns one oscillator, its rate included; likewise for the others. -/
def oscSound (o : Osc) : Bool := oscFinite o && rateLegal o.sampleRate
def aenvSound (a : Aenv) : Bool := aenvFinite a && rateLegal a.sampleRate
def menvSound (m : Menv) : Bool := menvFinite m && rateLegal m.sampleRate
def filtSound (f : Filt) : Bool := filtFinite f && rateLegal f.sampleRate

theorem registersFinite_iff (s : State) :
    registersFinite s = true ↔ oscSound s.osc = true ∧ aenvSound s.aenv = true ∧
      menvSound s.menv = true ∧ filtSound s.filt = true := by
  simp only [registersFinite, oscSound, aenvSound, menvSound, filtSound, Bool.and_eq_true]
  tauto

theorem reset_registersFinite : registersFinite State.reset = true := by decide +kernel

theorem OscStep.sound {i : Instr} {o o' : Osc} (h : OscStep i o o') (ho : oscSound o = true) :
    oscSound o' = true := by
  cases h with
  | keep => exact ho
  | reset => decide +kernel
  | rate _ hw =>
    have := rateLegal_max hw
    simp_all [oscSound, oscFinite]
  | frequency _ hw | glide _ hw =>
    have := max_isFinite (F64.ofF32_isFinite hw) freqMin_isFinite
    simp_all [oscSound, oscFinite]
  | wave _ square => cases square <;> simp_all [oscSound, oscFinite]
  | blend _ hw | subBlend _ hw =>
    have := clamp_unit_isFinite (F64.ofF32_isFinite hw)
    simp_all [oscSound, oscFinite]
  | jc303 => exact ho
  | resetPhase => simp_all [oscSound, oscFinite]
  | process =>
    rw [oscProcess_unit]
    have : o.frequency.isFinite = true → _ := sampleFrequency_isFinite
    simp_all [oscSound, oscFinite]

theorem AenvStep.sound {i : Instr} {a a' : Aenv} (h : AenvStep i a a') (ha : aenvSound a = true) :
    aenvSound a' = true := by
  cases h with
  | keep => exact ha
  | reset => decide +kernel
  | rate _ hw =>
    have := rateLegal_max hw
    simp_all [aenvSound, aenvFinite]
  | attack _ hw | decay _ hw | release _ hw =>
    have := F64.ofF32_isFinite hw
    simp_all [aenvSound, aenvFinite, recomputed_isFinite]
  | noteOn => simp_all [aenvSound, aenvFinite]
  | noteOff => exact ha
  | process =>
    rw [aenvProcess_unit]
    have : a.level.isFinite = true → _ := aenvProcess_level_isFinite
    simp_all [aenvSound, aenvFinite]

theorem MenvStep.sound {i : Instr} {m m' : Menv} (h : MenvStep i m m') (hm : menvSound m = true) :
    menvSound m' = true := by
  cases h with
  | keep => exact hm
  | reset => decide +kernel
  | rate _ hw =>
    have := rateLegal_max hw
    simp_all [menvSound, menvFinite]
  | decay _ hw =>
    have := F64.ofF32_isFinite hw
    simp_all [menvSound, menvFinite, recomputed_isFinite]
  | trigger | process => simp_all [menvSound, menvFinite]

theorem FiltStep.sound {i : Instr} {f f' : Filt} (h : FiltStep i f f') (hf : filtSound f = true) :
    filtSound f' = true := by
  cases h with
  | keep => exact hf
  | reset => decide +kernel
  | rate _ hw =>
    have := rateLegal_max hw
    simp_all [filtSound, filtFinite]
  | cutoff _ hw | envMod _ hw | fmAmount _ hw =>
    have := F64.ofF32_isFinite hw
    simp_all [filtSound, filtFinite, recomputed_isFinite]
  | resonance _ hw =>
    have := max_isFinite F64.zero_isFinite (F64.ofF32_isFinite hw)
    simp_all [filtSound, filtFinite, recomputed_isFinite]
  | process => simp_all [filtSound, filtFinite, settleStages]

/-- A command keeps the registers finite. -/
theorem exec_registersFinite {i : Instr} {s t : State} (hs : registersFinite s = true)
    (h : exec i s = .next t) : registersFinite t = true := by
  rw [registersFinite_iff] at hs ⊢
  obtain ⟨hosc, haenv, hmenv, hfilt⟩ := hs
  obtain ⟨so, sa, sm, sf, -⟩ := exec_steps i s t h
  exact ⟨so.sound hosc, sa.sound haenv, sm.sound hmenv, sf.sound hfilt⟩

theorem applyResetInput_registersFinite (s : State) :
    registersFinite (applyResetInput params s) = true := reset_registersFinite

theorem acceptCommand_registersFinite (s : State) :
    registersFinite (acceptCommand s).2 = registersFinite s := by
  rw [acceptCommand_frame]; rfl

theorem rejectHeader_registersFinite (r : Reject) (s : State) :
    registersFinite (rejectHeader r s) = registersFinite s := by
  rw [rejectHeader_frame]; rfl

/-- Settles O48: every way in which a unit changes writes operands, floors, or settled values. -/
theorem stepsKeepRegistersFinite : Obligations.StepsKeepRegistersFinite := fun _ _ hs h =>
  step_keeps applyResetInput_registersFinite
    (fun s hs => (acceptCommand_registersFinite s).trans hs) (fun _ _ _ => exec_registersFinite)
    (fun r s hs => (rejectHeader_registersFinite r s).trans hs) hs h

end Sys2Proof.Machine

end


/-! ## The control part stays legal (rules R21, R24, R27, R36, R38, R41 and R261) -/

section

namespace Sys2Proof.Machine

open F64

/-! ### STATUS and the framing position -/

theorem StickyStep.legal {i : Instr} {t t' : Sticky} (h : StickyStep i t t')
    (ht : stickyLegal t = true) : stickyLegal t' = true := by
  cases h with
  | keep => exact ht
  | record _ e => exact recordError_legal e t ht
  | reset => decide

/-- Where too few words are offered, fewer are collected than the header announces. -/
theorem collectOperands_framingLegal (h : Word) (ops port : List Word) (s : State) :
    framingLegal (collectOperands h ops port s).2.framing = true := by
  rcases Nat.lt_or_ge port.length (nwField h - ops.length) with hn | hn
  · rw [collectOperands_short hn]
    simp only [framingLegal, List.length_append, decide_eq_true_eq]
    omega
  · rw [collectOperands_whole hn]; rfl

theorem acceptCommand_framingLegal (s : State) : framingLegal (acceptCommand s).2.framing = true := by
  cases hf : s.framing with
  | waiting =>
    cases hp : s.cmdPort with
    | nil => rw [acceptCommand_idle hf hp, hf]; rfl
    | cons h rest =>
      simp only [acceptCommand, hf, hp]
      exact collectOperands_framingLegal h [] rest s
  | collecting h ops =>
    simp only [acceptCommand, hf]
    exact collectOperands_framingLegal h ops s.cmdPort s

theorem exec_framingLegal {i : Instr} {s t : State} (hs : framingLegal s.framing = true)
    (h : exec i s = .next t) : framingLegal t.framing = true := by
  by_cases hreset : i = .reset
  · subst hreset; cases h; rfl
  · rw [(exec_writesOnly i s hreset t h).framing, hs]

theorem rejectHeader_sticky (r : Reject) (s : State) :
    (rejectHeader r s).sticky = s.sticky ∨ ∃ e, (rejectHeader r s).sticky = recordError e s.sticky := by
  cases r with
  | truncated => exact .inl rfl
  | reserved => exact .inr ⟨.reserved, rfl⟩
  | opcode => exact .inr ⟨.opcode, rfl⟩

/-! ### The units -/

/-- The oscillator's parameters are legal (rules R24 and R27). -/
def oscParametersLegal (o : Osc) : Bool :=
  decide (o.glideSteps ≤ params.glideCntMax) && F64.ge o.targetFrequency params.freqMin
    && inUnit o.blend && inUnit o.subBlend

/-- The amplitude envelope's coefficients are 0 while its rate is `unset` (rule R41). -/
def aenvResting (a : Aenv) : Bool :=
  a.sampleRate.isSome || (a.attackInc == F64.zero && a.decayCoef == F64.zero && a.releaseCoef == F64.zero)

/-- The same for the modulation envelope. -/
def menvResting (m : Menv) : Bool := m.sampleRate.isSome || m.decayCoef == F64.zero

/-- The same for the filter, and its resonance is not negative (rule R36). -/
def filtResting (f : Filt) : Bool :=
  (f.sampleRate.isSome ||
    (f.fc == F64.zero && f.coefs == { b0 := F64.zero, k := F64.zero, g := F64.zero }))
    && F64.ge f.resonance F64.zero

theorem controlLegal_iff (s : State) :
    controlLegal s = true ↔ stickyLegal s.sticky = true ∧ framingLegal s.framing = true ∧
      oscParametersLegal s.osc = true ∧ aenvResting s.aenv = true ∧ menvResting s.menv = true ∧
      filtResting s.filt = true := by
  simp only [controlLegal, restingCoefs, parametersLegal, oscParametersLegal, aenvResting, menvResting,
    filtResting, Bool.and_eq_true]
  tauto

theorem reset_controlLegal : controlLegal State.reset = true := by decide +kernel

theorem inUnit_zero : inUnit F64.zero = true := by decide
theorem inUnit_one : inUnit F64.one = true := by decide

theorem OscStep.parametersLegal {i : Instr} {o o' : Osc} (h : OscStep i o o')
    (ho : oscParametersLegal o = true) : oscParametersLegal o' = true := by
  cases h with
  | keep | rate | jc303 | resetPhase => exact ho
  | reset => decide +kernel
  | frequency _ hw =>
    have := ge_max_right (F64.ofF32_isFinite hw) freqMin_isFinite
    simp_all [oscParametersLegal]
  | glide _ hw _ length =>
    have := ge_max_right (F64.ofF32_isFinite hw) freqMin_isFinite
    have := ceilCount_le params.glideCntMax length
    simp_all [oscParametersLegal]
  | wave _ square => cases square <;> simp_all [oscParametersLegal, inUnit_zero, inUnit_one]
  | blend _ hw | subBlend _ hw =>
    have := inUnit_clamp (F64.ofF32_isFinite hw)
    simp_all [oscParametersLegal]
  | process =>
    rw [oscProcess_unit]
    simp only [oscParametersLegal, Bool.and_eq_true, decide_eq_true_eq] at ho ⊢
    obtain ⟨⟨⟨hsteps, htarget⟩, hblend⟩, hsub⟩ := ho
    exact ⟨⟨⟨(Nat.sub_le _ _).trans hsteps, htarget⟩, hblend⟩, hsub⟩

theorem AenvStep.resting {i : Instr} {a a' : Aenv} (h : AenvStep i a a')
    (ha : aenvResting a = true) : aenvResting a' = true := by
  cases h with
  | keep | noteOn | noteOff => exact ha
  | reset => decide +kernel
  | rate => simp [aenvResting]
  | attack | decay | release =>
    cases hsr : a.sampleRate with
    | none => simpa [aenvResting, hsr] using ha
    | some sr => simp [aenvResting]
  | process => rw [aenvProcess_unit]; exact ha

theorem MenvStep.resting {i : Instr} {m m' : Menv} (h : MenvStep i m m')
    (hm : menvResting m = true) : menvResting m' = true := by
  cases h with
  | keep | trigger | process => exact hm
  | reset => decide +kernel
  | rate => simp [menvResting]
  | decay =>
    cases hsr : m.sampleRate with
    | none => simpa [menvResting, hsr] using hm
    | some sr => simp [menvResting]

theorem FiltStep.resting {i : Instr} {f f' : Filt} (h : FiltStep i f f')
    (hf : filtResting f = true) : filtResting f' = true := by
  cases h with
  | keep | envMod | fmAmount => exact hf
  | reset => decide +kernel
  | rate => simp_all [filtResting]
  | cutoff =>
    cases hsr : f.sampleRate with
    | none => simp_all [filtResting]
    | some sr => simp_all [filtResting]
  | resonance _ hw =>
    have := ge_max_left F64.zero_isFinite (F64.ofF32_isFinite hw)
    cases hsr : f.sampleRate with
    | none => simp_all [filtResting]
    | some sr => simp_all [filtResting]
  | process => simp_all [filtResting]

/-! ### Every step -/

/-- A command keeps the control part legal. -/
theorem exec_controlLegal {i : Instr} {s t : State} (hs : controlLegal s = true)
    (h : exec i s = .next t) : controlLegal t = true := by
  rw [controlLegal_iff] at hs ⊢
  obtain ⟨hsticky, hframing, hosc, haenv, hmenv, hfilt⟩ := hs
  obtain ⟨so, sa, sm, sf, st⟩ := exec_steps i s t h
  exact ⟨st.legal hsticky, exec_framingLegal hframing h, so.parametersLegal hosc, sa.resting haenv,
    sm.resting hmenv, sf.resting hfilt⟩

theorem applyResetInput_controlLegal (s : State) :
    controlLegal (applyResetInput params s) = true := reset_controlLegal

theorem acceptCommand_controlLegal {s : State} (hs : controlLegal s = true) :
    controlLegal (acceptCommand s).2 = true := by
  have hframing := acceptCommand_framingLegal s
  rw [controlLegal_iff] at hs ⊢
  obtain ⟨hsticky, -, hunits⟩ := hs
  rw [acceptCommand_frame]
  exact ⟨hsticky, hframing, hunits⟩

theorem rejectHeader_controlLegal (r : Reject) {s : State} (hs : controlLegal s = true) :
    controlLegal (rejectHeader r s) = true := by
  rw [controlLegal_iff] at hs ⊢
  obtain ⟨hsticky, hrest⟩ := hs
  rw [rejectHeader_frame]
  refine ⟨?_, hrest⟩
  rcases rejectHeader_sticky r s with h | ⟨e, h⟩ <;> rw [h]
  · exact hsticky
  · exact recordError_legal e _ hsticky

/-- Settles O49: unit by unit, with the framing position legal after every acceptance. -/
theorem stepsKeepControlLegal : Obligations.StepsKeepControlLegal := fun _ _ hs h =>
  step_keeps applyResetInput_controlLegal (fun _ => acceptCommand_controlLegal)
    (fun _ _ _ => exec_controlLegal) (fun r _ => rejectHeader_controlLegal r) hs h

end Sys2Proof.Machine

end


/-! ## The signal part stays legal (rules R25, R28, R32, R125 and R159) -/

section

namespace Sys2Proof.Machine

open F64

/-! ### Values that are not negative -/

/-- No negative number: a finite value is at least 0; an infinity or a NaN is written as 0. -/
def NotNegative (x : F64) : Prop := x.isFinite = true → 0 ≤ x.toRat

theorem notNegative_of_not_finite {x : F64} (h : x.isFinite = false) : NotNegative x :=
  fun hx => absurd (h.symm.trans hx) Bool.false_ne_true

theorem Rounded.notNegative {v : ℝ} {x : F64} (h : Rounded v x) (hv : 0 ≤ v) : NotNegative x := by
  intro hx
  by_cases hlt : |v| < 2 ^ 1024 - 2 ^ 970
  · have := h.le_toRat hlt zero_isFinite (by rwa [toRat_zero, Rat.cast_zero])
    rwa [toRat_zero] at this
  · rw [Rounded, if_neg hlt] at h
    rw [h, inf_not_finite] at hx
    contradiction

theorem toRat_nonneg_of_isNeg_eq_false {x : F64} (h : x.isNeg = false) : 0 ≤ x.toRat := by
  rw [toRat_eq_units, units, h]
  simp only [signFactor_false, one_mul]
  positivity

theorem isNeg_eq_false_of_pos {x : F64} (h : 0 < x.toRat) : x.isNeg = false := by
  cases hs : x.isNeg
  · rfl
  · have hneg : (x.units : ℚ) ≤ 0 := by rw [units, hs]; simp
    rw [toRat_eq_units] at h
    exact absurd h (not_lt.mpr (mul_nonpos_of_nonpos_of_nonneg hneg (by positivity)))

theorem ge_zero_iff {x : F64} (hx : x.isFinite = true) : F64.ge x F64.zero = true ↔ 0 ≤ x.toRat := by
  rw [ge_iff hx zero_isFinite, toRat_zero]

/-- What is written for such a value is at least 0. -/
theorem written_nonneg {x : F64} (h : NotNegative x) : 0 ≤ (written x).toRat := by
  cases hx : x.isFinite
  · rw [written_of_nonfinite hx, toRat_zero]
  · rw [written_of_finite hx]; exact h hx

theorem ge_written_zero {x : F64} (h : NotNegative x) : F64.ge (written x) F64.zero = true :=
  (ge_zero_iff (written_isFinite x)).mpr (written_nonneg h)

theorem notNegative_add {x y : F64} (hx : x.isFinite = true) (hy : y.isFinite = true)
    (hx0 : 0 ≤ x.toRat) (hy0 : 0 ≤ y.toRat) : NotNegative (F64.add x y) :=
  (rounded_add hx hy).notNegative (by exact_mod_cast add_nonneg hx0 hy0)

theorem notNegative_mul {x y : F64} (hx : x.isFinite = true) (hy : y.isFinite = true)
    (hx0 : 0 ≤ x.toRat) (hy0 : 0 ≤ y.toRat) : NotNegative (F64.mul x y) :=
  (rounded_mul hx hy).notNegative (by exact_mod_cast mul_nonneg hx0 hy0)

/-- A quotient by zero is no number, so the divisor may be zero. -/
theorem notNegative_div {x y : F64} (hx : x.isFinite = true) (hy : y.isFinite = true)
    (hx0 : 0 ≤ x.toRat) (hy0 : 0 ≤ y.toRat) : NotNegative (F64.div x y) := by
  cases hz : y.isZero
  · exact (rounded_div hx hy hz).notNegative (by exact_mod_cast div_nonneg hx0 hy0)
  · refine notNegative_of_not_finite ?_
    simp only [F64.div, not_isNaN_of_isFinite hx, not_isNaN_of_isFinite hy, hx, hy, hz,
      Bool.or_self, Bool.and_self, Bool.false_eq_true, if_false, if_true]
    split
    · decide
    · exact inf_not_finite _

theorem notNegative_pow {a : F64} (ha : NotNegative a) (b : F64) : NotNegative (F64.pow a b) := by
  unfold F64.pow
  split
  · exact notNegative_of_not_finite (by decide)
  split
  · exact ha
  split
  · exact fun _ => toRat_zero.ge
  split
  · exact notNegative_of_not_finite (by decide)
  split
  · exact notNegative_of_not_finite (by decide)
  · exact fun _ => toRat_nonneg_of_isNeg_eq_false (pack_isNeg false (agree_lt _ _))

/-- Dividing by at least 1 keeps a value that is not negative finite, and does not raise it. -/
theorem div_of_one_le {x y : F64} (hx : x.isFinite = true) (hy : y.isFinite = true)
    (hx0 : 0 ≤ x.toRat) (hy1 : 1 ≤ y.toRat) :
    (F64.div x y).isFinite = true ∧ 0 ≤ (F64.div x y).toRat ∧ (F64.div x y).toRat ≤ x.toRat := by
  have hz : y.isZero = false := by
    rw [← Bool.not_eq_true]
    intro hz
    rw [toRat_of_isZero hz] at hy1
    exact absurd hy1 (by norm_num)
  have hround := rounded_div hx hy hz
  have h0 : (0 : ℝ) ≤ x.toRat / y.toRat := by exact_mod_cast div_nonneg hx0 (zero_le_one.trans hy1)
  have hle : (x.toRat : ℝ) / y.toRat ≤ x.toRat := by exact_mod_cast div_le_self hx0 hy1
  have hlt : |(x.toRat : ℝ) / y.toRat| < 2 ^ 1024 - 2 ^ 970 := by
    rw [abs_of_nonneg h0]
    exact hle.trans_lt ((le_abs_self _).trans_lt (abs_toRat_lt hx))
  have hfin := (hround.of_lt hlt).1
  exact ⟨hfin, hround.notNegative h0 hfin, hround.toRat_le hlt hx hle⟩

/-! ### Phases -/

/-- The fractional part of an infinity or a NaN is a NaN. -/
theorem frac_of_not_finite {x : F64} (h : x.isFinite = false) : (F64.frac x).isFinite = false := by
  have hneg : (F64.neg x).isFinite = false := by rw [isFinite_neg, h]
  have hsign : (F64.neg x).isNeg = !x.isNeg := by rw [neg_eq_pack, pack_isNeg _ x.mag_lt]
  have hfloor : F64.floor x = x := by simp [F64.floor, h]
  have hadd : F64.add x (F64.neg x) = F64.nan := by simp [F64.add, h, hneg, hsign]
  rw [F64.frac, hfloor, F64.sub, hadd]
  decide

/-- A phase advanced by a value that is not negative, wrapped and written. -/
theorem inHalfOpenUnit_written_frac {x : F64} (h : NotNegative x) :
    inHalfOpenUnit (written (F64.frac x)) = true := by
  cases hx : x.isFinite
  · rw [written_of_nonfinite (frac_of_not_finite hx)]; decide
  · have hphase := fracOfNonNegativeIsInHalfOpenUnit x hx ((ge_zero_iff hx).mpr (h hx))
    have hfin := (toRat_frac hx (h hx)).1
    rwa [written_of_finite hfin]

theorem inHalfOpenUnit_iff (x : F64) :
    inHalfOpenUnit x = true ↔ x.isFinite = true ∧ 0 ≤ x.toRat ∧ x.toRat < 1 := by
  simp only [inHalfOpenUnit, Bool.and_eq_true, and_assoc]
  refine and_congr_right fun hx => ?_
  rw [ge_zero_iff hx, lt_iff hx one_isFinite, toRat_one]

theorem inHalfOpenUnit_zero : inHalfOpenUnit F64.zero = true := by decide

/-- A legal rate is a finite value of at least `SR_MIN`, which is 1. -/
theorem rateLegal_some {sr : F64} (h : rateLegal (some sr) = true) :
    sr.isFinite = true ∧ 1 ≤ sr.toRat := by
  simp only [rateLegal, Bool.and_eq_true] at h
  obtain ⟨hfin, hge⟩ := h
  refine ⟨hfin, ?_⟩
  have := (ge_iff hfin srMin_isFinite).mp hge
  rwa [show params.srMin = F64.one from rfl, toRat_one] at this

/-- A floored frequency is positive. -/
theorem toRat_pos_of_ge_freqMin {x : F64} (hx : x.isFinite = true)
    (h : F64.ge x params.freqMin = true) : 0 < x.toRat := by
  have hmin : 0 < params.freqMin.toRat := by
    rw [← toRat_zero, ← lt_iff zero_isFinite freqMin_isFinite]
    decide +kernel
  exact hmin.trans_le ((ge_iff hx freqMin_isFinite).mp h)

theorem toRat_two : (F64.ofNat 2).isFinite = true ∧ 1 ≤ (F64.ofNat 2).toRat := by
  have hfin : (F64.ofNat 2).isFinite = true := by decide +kernel
  refine ⟨hfin, ?_⟩
  rw [← toRat_one, ← ge_iff hfin one_isFinite]
  decide +kernel

/-- The part of `signalsLegal` that concerns the oscillator. -/
def oscSignals (o : Osc) : Bool :=
  inHalfOpenUnit o.phase && inHalfOpenUnit o.subPhase && F64.ge o.frequency F64.zero
    && F64.ge o.glideMult F64.zero

/-- What the oscillator's signals rest on: finite registers, a legal rate and a floored target. -/
structure OscSafe (o : Osc) : Prop where
  phase : inHalfOpenUnit o.phase = true
  subPhase : inHalfOpenUnit o.subPhase = true
  frequency : o.frequency.isFinite = true
  frequency_nonneg : 0 ≤ o.frequency.toRat
  glideMult : o.glideMult.isFinite = true
  glideMult_nonneg : 0 ≤ o.glideMult.toRat
  target : o.targetFrequency.isFinite = true
  target_nonneg : 0 ≤ o.targetFrequency.toRat
  rate : rateLegal o.sampleRate = true

theorem oscSafe_of_legal {o : Osc} (hsound : oscSound o = true)
    (hparams : oscParametersLegal o = true) (hsignals : oscSignals o = true) : OscSafe o := by
  simp only [oscSound, oscFinite, List.all_cons, List.all_nil, Bool.and_true, Bool.and_eq_true]
    at hsound
  simp only [oscParametersLegal, Bool.and_eq_true] at hparams
  simp only [oscSignals, Bool.and_eq_true] at hsignals
  obtain ⟨⟨-, -, hfreq, htarget, hmult, -, -, -⟩, hrate⟩ := hsound
  obtain ⟨⟨⟨-, hfloor⟩, -⟩, -⟩ := hparams
  obtain ⟨⟨⟨hphase, hsub⟩, hfreq0⟩, hmult0⟩ := hsignals
  exact ⟨hphase, hsub, hfreq, (ge_zero_iff hfreq).mp hfreq0, hmult, (ge_zero_iff hmult).mp hmult0,
    htarget, (toRat_pos_of_ge_freqMin htarget hfloor).le, hrate⟩

/-- The frequency of a sample is not negative: the register's, the target or a product. -/
theorem OscSafe.sampleFrequency_nonneg {o : Osc} (h : OscSafe o) :
    0 ≤ (sampleFrequency o).toRat := by
  unfold sampleFrequency glidedFrequency
  split
  · exact h.frequency_nonneg
  split
  · exact written_nonneg fun _ => h.target_nonneg
  · exact written_nonneg
      (notNegative_mul h.frequency h.glideMult h.frequency_nonneg h.glideMult_nonneg)

/-- A phase advanced by a finite increment that is not negative. -/
theorem inHalfOpenUnit_advance {phase dt : F64} (hphase : inHalfOpenUnit phase = true)
    (hdt : dt.isFinite = true) (hdt0 : 0 ≤ dt.toRat) :
    inHalfOpenUnit (written (F64.frac (F64.add phase dt))) = true := by
  obtain ⟨hfin, h0, -⟩ := (inHalfOpenUnit_iff phase).mp hphase
  exact inHalfOpenUnit_written_frac (notNegative_add hfin hdt h0 hdt0)

/-- One sample keeps the oscillator's signals legal. -/
theorem OscSafe.process {o : Osc} (h : OscSafe o) {sr : F64} (hsr : o.sampleRate = some sr) :
    oscSignals (oscProcess params sr o).unit = true := by
  obtain ⟨hsrfin, hsr1⟩ := rateLegal_some (hsr ▸ h.rate)
  have hf := sampleFrequency_isFinite h.frequency
  have hf0 := h.sampleFrequency_nonneg
  obtain ⟨hdt, hdt0, -⟩ := div_of_one_le hf hsrfin hf0 hsr1
  obtain ⟨hdts, hdts0, -⟩ := div_of_one_le hdt toRat_two.1 hdt0 toRat_two.2
  rw [oscProcess_unit]
  simp only [oscSignals, Bool.and_eq_true]
  exact ⟨⟨⟨inHalfOpenUnit_advance h.phase hdt hdt0, inHalfOpenUnit_advance h.subPhase hdts hdts0⟩,
    (ge_zero_iff hf).mpr hf0⟩, (ge_zero_iff h.glideMult).mpr h.glideMult_nonneg⟩

theorem reset_signalsLegal : signalsLegal State.reset = true := by decide +kernel

theorem OscStep.signals {i : Instr} {o o' : Osc} (h : OscStep i o o') (hsafe : OscSafe o)
    (ho : oscSignals o = true) : oscSignals o' = true := by
  cases h with
  | keep | rate | wave | blend | subBlend | jc303 => exact ho
  | reset => decide +kernel
  | @frequency hz _ hw =>
    have hfin := max_isFinite (F64.ofF32_isFinite hw) freqMin_isFinite
    have hpos := toRat_pos_of_ge_freqMin hfin (ge_max_right (F64.ofF32_isFinite hw) freqMin_isFinite)
    have hone : F64.ge F64.one F64.zero = true := by decide
    simp [oscSignals, inHalfOpenUnit_zero, (ge_zero_iff hfin).mpr hpos.le, hone]
  | @glide hz ms _ hw exponent =>
    have hfin := max_isFinite (F64.ofF32_isFinite hw) freqMin_isFinite
    have hpos := toRat_pos_of_ge_freqMin hfin (ge_max_right (F64.ofF32_isFinite hw) freqMin_isFinite)
    have hmult := ge_written_zero (notNegative_pow
      (notNegative_div hfin hsafe.frequency hpos.le hsafe.frequency_nonneg) exponent)
    simp_all [oscSignals]
  | resetPhase => simp_all [oscSignals, inHalfOpenUnit_zero]
  | process _ _ hsr => exact hsafe.process hsr

/-! ### Envelope coefficients -/

theorem inUnit_written {x : F64} (h : inUnit x = true) : inUnit (written x) = true := by
  rwa [written_of_finite (isFinite_of_inUnit h)]

theorem inUnit_written_of_not_finite {x : F64} (h : x.isFinite = false) :
    inUnit (written x) = true := by
  rw [written_of_nonfinite h]; exact inUnit_zero

theorem inUnit_div_one {y : F64} (hy : y.isFinite = true) (hy1 : 1 ≤ y.toRat) :
    inUnit (F64.div F64.one y) = true := by
  obtain ⟨hfin, h0, hle⟩ := div_of_one_le one_isFinite hy (by rw [toRat_one]; norm_num) hy1
  rw [toRat_one] at hle
  exact (inUnit_iff _).mpr ⟨hfin, h0, hle⟩

/-- The attack increment as written: one over at least 1, or over an infinity. -/
theorem inUnit_attackInc (sr ms : F64) : inUnit (written (attackIncOf binary64 sr ms)) = true := by
  rw [attackIncOf_binary64]
  generalize F64.div (F64.mul ms sr) (F64.ofNat 1000) = n
  rcases max_cases F64.one n with ⟨h, -⟩ | ⟨h, hlt⟩ <;> rw [h]
  · exact inUnit_written (inUnit_div_one one_isFinite toRat_one.ge)
  cases hfin : n.isFinite
  · have hone : F64.one.isNaN = false := by decide
    rw [F64.div, hone, one_isFinite, hfin]
    cases n.isNaN
    · refine inUnit_written ((inUnit_iff _).mpr ?_)
      simp only [Bool.or_self, Bool.and_false, Bool.false_eq_true, if_false, if_true, toRat_pack_zero]
      exact ⟨pack_isFinite _ (by decide), le_rfl, zero_le_one⟩
    · exact inUnit_written_of_not_finite (by simp; decide)
  · refine inUnit_written (inUnit_div_one hfin ?_)
    have := (lt_eq_false_iff hfin one_isFinite).mp hlt
    rwa [toRat_one] at this

theorem nan_isNeg : F64.nan.isNeg = false := by decide

theorem isNeg_inf (s : Bool) : (F64.inf s).isNeg = s := pack_isNeg s (by decide)

/-- A product of values with clear sign bits has a clear sign bit; so has the NaN. -/
theorem isNeg_mul_eq_false {x y : F64} (hx : x.isNeg = false) (hy : y.isNeg = false) :
    (F64.mul x y).isNeg = false := by
  unfold F64.mul
  rw [hx, hy]
  split
  · exact nan_isNeg
  split
  · exact isNeg_roundScaled ..
  split
  · exact nan_isNeg
  · exact isNeg_inf _

/-- A quotient of opposite signs is a NaN or has its sign bit set. -/
theorem isNeg_div {x y : F64} (hx : x.isNeg = true) (hy : y.isNeg = false) :
    F64.div x y = F64.nan ∨ (F64.div x y).isNeg = true := by
  unfold F64.div
  rw [hx, hy]
  split
  · exact .inl rfl
  split
  · split
    · split
      · exact .inl rfl
      · exact .inr (isNeg_inf _)
    · exact .inr (isNeg_round ..)
  split
  · exact .inr (pack_isNeg _ (by decide))
  split
  · exact .inr (isNeg_inf _)
  · exact .inl rfl

/-- The answer of `agree` is the rounding of one of the bounds. -/
theorem exists_agree_eq_roundMag (enc : ℕ → ℕ → ℕ × ℕ) (P : ℕ) (l : List ℕ) :
    ∃ dir Q, agree enc (P :: l) = roundMag 52 1074 top64 (enc dir Q).1 (enc dir Q).2 := by
  induction l generalizing P with
  | nil =>
    simp only [agree]
    split
    · exact ⟨0, P, rfl⟩
    split
    · exact ⟨0, P, rfl⟩
    · exact ⟨1, P, rfl⟩
  | cons Q more ih =>
    rw [agree]
    split
    · exact ⟨0, P, rfl⟩
    · exact ih Q

/-- A fraction of at most 1 rounds into `[0, 1]`. -/
theorem inUnit_round {p d : ℕ} (hd : d ≠ 0) (h : p ≤ d) : inUnit (F64.round false p d) = true := by
  have hround := rounded_round false p hd rfl
  rw [signFactor_false, Int.cast_one, one_mul] at hround
  have h0 : (0 : ℝ) ≤ (p : ℝ) / d := by positivity
  have h1 : (p : ℝ) / d ≤ 1 := div_le_one_of_le₀ (by exact_mod_cast h) (Nat.cast_nonneg d)
  have hlt : |(p : ℝ) / d| < 2 ^ 1024 - 2 ^ 970 := by
    rw [abs_of_nonneg h0]
    exact (h1.trans (pow_zero 2).ge).trans_lt (two_pow_lt_threshold (Nat.zero_le _))
  have hfin := (hround.of_lt hlt).1
  have hle := hround.toRat_le hlt one_isFinite (by rwa [toRat_one, Rat.cast_one])
  rw [toRat_one] at hle
  exact (inUnit_iff _).mpr ⟨hfin, hround.notNegative h0 hfin, hle⟩

/-- The exponential of a negative argument lies in `[0, 1]`, whichever bound it is rounded from. -/
theorem inUnit_exp_of_isNeg {x : F64} (h : x.isNeg = true) (hnan : x.isNaN = false) :
    inUnit (F64.exp x) = true := by
  rw [F64.exp, hnan, h, if_neg Bool.false_ne_true]
  split
  · exact inUnit_one
  split
  · exact inUnit_zero
  rename_i hz _
  have hnum := num_ne_zero (Bool.not_eq_true _ ▸ hz)
  obtain ⟨dir, P, hagree⟩ := exists_agree_eq_roundMag
    (fun dir P => expFrac dir P (if true then -(x.num : ℤ) else x.num) x.den) 128 [256, 512, 1024]
  change inUnit (pack false (agree _ [128, 256, 512, 1024])) = true
  rw [hagree]
  have hneg : -(x.num : ℤ) < 0 := by omega
  simp only [if_true, expFrac, hneg, Nat.one_shiftLeft]
  exact inUnit_round (expBound_ne_zero _ _ _ _) (two_pow_le_expBound _ _ _ _)

/-- The written decay coefficient of a finite time and a legal rate. -/
theorem inUnit_decayCoef {sr ms : F64} (hms : ms.isFinite = true) (hsr : rateLegal (some sr) = true) :
    inUnit (written (decayCoefOf params sr ms)) = true := by
  obtain ⟨-, hsr1⟩ := rateLegal_some hsr
  have htmin : params.tMinMs.isFinite = true := by decide +kernel
  have htime : (F64.max ms params.tMinMs).isNeg = false := by
    refine isNeg_eq_false_of_pos ?_
    have hpos : 0 < params.tMinMs.toRat := by
      rw [← toRat_zero, ← lt_iff zero_isFinite htmin]
      decide +kernel
    rw [toRat_max hms htmin]
    exact lt_max_of_lt_right hpos
  have hdenominator := isNeg_mul_eq_false
    (isNeg_mul_eq_false (show (F64.dec 1 3).isNeg = false from isNeg_round ..) htime)
    (isNeg_eq_false_of_pos (one_pos.trans_le hsr1))
  have harg := isNeg_div (show (F64.neg F64.one).isNeg = true by decide) hdenominator
  rw [decayCoefOf_params]
  generalize F64.div (F64.neg F64.one) _ = x at harg ⊢
  rcases harg with rfl | h
  · decide
  · cases hnan : x.isNaN
    · exact inUnit_written (inUnit_exp_of_isNeg h hnan)
    · rw [F64.exp, if_pos hnan]; decide

theorem inUnit_recomputed {rate : Option F64} {old : F64} {coef : F64 → F64}
    (hold : inUnit old = true) (hcoef : ∀ sr, rate = some sr → inUnit (written (coef sr)) = true) :
    inUnit (recomputed rate old coef) = true := by
  cases rate with
  | none => exact hold
  | some sr => exact hcoef sr rfl

/-! ### Envelopes -/

/-- The part of `signalsLegal` that concerns the amplitude envelope. -/
def aenvSignals (a : Aenv) : Bool :=
  inUnit a.level && inUnit a.attackInc && inUnit a.decayCoef && inUnit a.releaseCoef

/-- The part of `signalsLegal` that concerns the modulation envelope. -/
def menvSignals (m : Menv) : Bool := inUnit m.level && inUnit m.decayCoef

/-- The Attack action ends at 1 or below it. -/
theorem inUnit_aenvRise {a : Aenv} (hl : inUnit a.level = true) (hi : inUnit a.attackInc = true) :
    inUnit (aenvRise binary64 a).unit.level = true := by
  obtain ⟨hlf, hl0, -⟩ := (inUnit_iff _).mp hl
  obtain ⟨hif, hi0, -⟩ := (inUnit_iff _).mp hi
  rw [aenvRise_binary64]
  dsimp only
  split
  · exact inUnit_one
  · rename_i hge
    have hfin := written_isFinite (F64.add a.level a.attackInc)
    refine (inUnit_iff _).mpr ⟨hfin, written_nonneg (notNegative_add hlf hif hl0 hi0), ?_⟩
    rw [ge_iff hfin one_isFinite, toRat_one, not_le] at hge
    exact hge.le

/-- The Decay and the Release action end at 0 or at a product of two values of `[0, 1]`. -/
theorem inUnit_aenvFall {a : Aenv} {c : F64} (hl : inUnit a.level = true) (hc : inUnit c = true) :
    inUnit (aenvFall binary64 c a).unit.level = true := by
  rw [aenvFall_binary64]
  dsimp only
  split
  · exact inUnit_zero
  · exact inUnit_written (mul_inUnit hl hc).1

theorem inUnit_aenvProcess {a : Aenv} (h : aenvSignals a = true) :
    inUnit (aenvProcess binary64 a).unit.level = true := by
  simp only [aenvSignals, Bool.and_eq_true] at h
  obtain ⟨⟨⟨hl, hi⟩, hd⟩, hr⟩ := h
  cases hst : a.stage with
  | idle => rwa [aenvProcess_idle hst]
  | attack => rw [aenvProcess_attack hst]; exact inUnit_aenvRise hl hi
  | decay => rw [aenvProcess_decay hst]; exact inUnit_aenvFall hl hd
  | release => rw [aenvProcess_release hst]; exact inUnit_aenvFall hl hr

theorem AenvStep.signals {i : Instr} {a a' : Aenv} (h : AenvStep i a a') (hsound : aenvSound a = true)
    (ha : aenvSignals a = true) : aenvSignals a' = true := by
  have hrate : ∀ sr, a.sampleRate = some sr → rateLegal (some sr) = true := fun sr hsr => by
    rw [← hsr]; exact (Bool.and_eq_true_iff.mp hsound).2
  have htimes : a.decayMs.isFinite = true ∧ a.releaseMs.isFinite = true := by
    simp_all [aenvSound, aenvFinite]
  have hsignals := ha
  simp only [aenvSignals, Bool.and_eq_true] at hsignals ⊢
  obtain ⟨⟨⟨hl, hi⟩, hd⟩, hr⟩ := hsignals
  cases h with
  | keep | noteOff => exact ⟨⟨⟨hl, hi⟩, hd⟩, hr⟩
  | reset => decide
  | rate _ hw =>
    have hlegal := rateLegal_max hw
    exact ⟨⟨⟨hl, inUnit_attackInc _ _⟩, inUnit_decayCoef htimes.1 hlegal⟩,
      inUnit_decayCoef htimes.2 hlegal⟩
  | attack => exact ⟨⟨⟨hl, inUnit_recomputed hi fun _ _ => inUnit_attackInc _ _⟩, hd⟩, hr⟩
  | decay _ hw =>
    have hms := F64.ofF32_isFinite hw
    exact ⟨⟨⟨hl, hi⟩, inUnit_recomputed hd fun sr hsr => inUnit_decayCoef hms (hrate sr hsr)⟩, hr⟩
  | release _ hw =>
    have hms := F64.ofF32_isFinite hw
    exact ⟨⟨⟨hl, hi⟩, hd⟩, inUnit_recomputed hr fun sr hsr => inUnit_decayCoef hms (hrate sr hsr)⟩
  | noteOn => exact ⟨⟨⟨inUnit_zero, hi⟩, hd⟩, hr⟩
  | process => rw [aenvProcess_unit]; exact ⟨⟨⟨inUnit_aenvProcess ha, hi⟩, hd⟩, hr⟩

theorem MenvStep.signals {i : Instr} {m m' : Menv} (h : MenvStep i m m') (hsound : menvSound m = true)
    (hm : menvSignals m = true) : menvSignals m' = true := by
  have hrate : ∀ sr, m.sampleRate = some sr → rateLegal (some sr) = true := fun sr hsr => by
    rw [← hsr]; exact (Bool.and_eq_true_iff.mp hsound).2
  have htime : m.decayMs.isFinite = true := by simp_all [menvSound, menvFinite]
  simp only [menvSignals, Bool.and_eq_true] at hm ⊢
  obtain ⟨hl, hd⟩ := hm
  cases h with
  | keep => exact ⟨hl, hd⟩
  | reset => decide
  | rate _ hw => exact ⟨hl, inUnit_decayCoef htime (rateLegal_max hw)⟩
  | decay _ hw =>
    exact ⟨hl, inUnit_recomputed hd fun sr hsr =>
      inUnit_decayCoef (F64.ofF32_isFinite hw) (hrate sr hsr)⟩
  | trigger => exact ⟨inUnit_one, hd⟩
  | process => exact ⟨inUnit_written (mul_inUnit hl hd).1, hd⟩

/-! ### Every step -/

theorem signalsLegal_iff (s : State) :
    signalsLegal s = true ↔
      oscSignals s.osc = true ∧ aenvSignals s.aenv = true ∧ menvSignals s.menv = true := by
  simp only [signalsLegal, oscSignals, aenvSignals, menvSignals, Bool.and_eq_true]
  tauto

/-- A command keeps the signal part legal, in a finite and legal state. -/
theorem exec_signalsLegal {i : Instr} {s t : State} (hfin : registersFinite s = true)
    (hcontrol : controlLegal s = true) (hs : signalsLegal s = true) (h : exec i s = .next t) :
    signalsLegal t = true := by
  rw [signalsLegal_iff] at hs ⊢
  obtain ⟨hosc, haenv, hmenv⟩ := hs
  obtain ⟨fosc, faenv, fmenv, -⟩ := (registersFinite_iff s).mp hfin
  obtain ⟨-, -, cosc, -⟩ := (controlLegal_iff s).mp hcontrol
  obtain ⟨so, sa, sm, -, -⟩ := exec_steps i s t h
  exact ⟨so.signals (oscSafe_of_legal fosc cosc hosc) hosc, sa.signals faenv haenv,
    sm.signals fmenv hmenv⟩

theorem acceptCommand_signalsLegal (s : State) :
    signalsLegal (acceptCommand s).2 = signalsLegal s := by
  rw [acceptCommand_frame]; rfl

theorem rejectHeader_signalsLegal (r : Reject) (s : State) :
    signalsLegal (rejectHeader r s) = signalsLegal s := by
  rw [rejectHeader_frame]; rfl

/-- A state that is legal in all three senses. -/
structure Legal (s : State) : Prop where
  finite : registersFinite s = true
  control : controlLegal s = true
  signals : signalsLegal s = true

theorem step_keeps_legal {s t : State} (hs : Legal s) (h : step s = .next t) : Legal t :=
  step_keeps
    (fun s => ⟨applyResetInput_registersFinite s, applyResetInput_controlLegal s, reset_signalsLegal⟩)
    (fun s hs => ⟨(acceptCommand_registersFinite s).trans hs.finite,
      acceptCommand_controlLegal hs.control, (acceptCommand_signalsLegal s).trans hs.signals⟩)
    (fun _ _ _ hs h => ⟨exec_registersFinite hs.finite h, exec_controlLegal hs.control h,
      exec_signalsLegal hs.finite hs.control hs.signals h⟩)
    (fun r s hs => ⟨(rejectHeader_registersFinite r s).trans hs.finite,
      rejectHeader_controlLegal r hs.control, (rejectHeader_signalsLegal r s).trans hs.signals⟩) hs h

/-- Settles O50: increments are not negative, so the phases wrap into `[0, 1)`; levels are products,
sums stopped at 1, and coefficients are exponentials of negative numbers or reciprocals. -/
theorem stepsKeepSignalsLegal : Obligations.StepsKeepSignalsLegal := fun _ _ hfin hcontrol hs h =>
  (step_keeps_legal ⟨hfin, hcontrol, hs⟩ h).signals

/-- Settles O47. -/
theorem resetStateIsLegal : Obligations.ResetStateIsLegal :=
  ⟨reset_registersFinite, reset_controlLegal, reset_signalsLegal⟩

end Sys2Proof.Machine

end


/-! ## What each command leaves alone and records (rules R24, R28, R30, R32 to R34 and R38) -/

section

namespace Sys2Proof.Machine

open F64

/-! ### The "written by" columns -/

/-- The command is not among the writers of a register, and not RESET. -/
def NotWriter (i : Instr) (writers : List Word) : Prop := headerOf i ∉ 0x00000001#32 :: writers

/-- The table of rule R24. -/
structure OscColumns (i : Instr) (o o' : Osc) : Prop where
  phases : NotWriter i [0x111#32, 0x017#32, 0x018#32, 0x102#32] →
    o'.phase = o.phase ∧ o'.subPhase = o.subPhase
  frequency : NotWriter i [0x111#32, 0x018#32, 0x102#32] → o'.frequency = o.frequency
  target : NotWriter i [0x111#32, 0x212#32] →
    o'.targetFrequency = o.targetFrequency ∧ o'.glideMult = o.glideMult
  glideSteps : NotWriter i [0x111#32, 0x212#32, 0x018#32, 0x102#32] → o'.glideSteps = o.glideSteps
  blend : NotWriter i [0x113#32, 0x114#32] → o'.blend = o.blend
  subBlend : NotWriter i [0x115#32] → o'.subBlend = o.subBlend
  jc303 : NotWriter i [0x116#32] → o'.jc303 = o.jc303
  sampleRate : NotWriter i [0x110#32] → o'.sampleRate = o.sampleRate
  out : NotWriter i [0x018#32, 0x102#32] → o'.out = o.out

/-- The table of rule R28. -/
structure AenvColumns (i : Instr) (a a' : Aenv) : Prop where
  stage : NotWriter i [0x024#32, 0x025#32, 0x026#32, 0x102#32] → a'.stage = a.stage
  level : NotWriter i [0x024#32, 0x026#32, 0x102#32] → a'.level = a.level
  gate : NotWriter i [0x024#32, 0x025#32] → a'.gate = a.gate
  attackMs : NotWriter i [0x121#32] → a'.attackMs = a.attackMs
  decayMs : NotWriter i [0x122#32] → a'.decayMs = a.decayMs
  releaseMs : NotWriter i [0x123#32] → a'.releaseMs = a.releaseMs
  sampleRate : NotWriter i [0x120#32] → a'.sampleRate = a.sampleRate
  attackInc : NotWriter i [0x120#32, 0x121#32] → a'.attackInc = a.attackInc
  decayCoef : NotWriter i [0x120#32, 0x122#32] → a'.decayCoef = a.decayCoef
  releaseCoef : NotWriter i [0x120#32, 0x123#32] → a'.releaseCoef = a.releaseCoef

/-- The table of rule R32. -/
structure MenvColumns (i : Instr) (m m' : Menv) : Prop where
  level : NotWriter i [0x032#32, 0x033#32, 0x102#32] → m'.level = m.level
  decayMs : NotWriter i [0x131#32] → m'.decayMs = m.decayMs
  sampleRate : NotWriter i [0x130#32] → m'.sampleRate = m.sampleRate
  decayCoef : NotWriter i [0x130#32, 0x131#32] → m'.decayCoef = m.decayCoef

/-- The table of rule R34. -/
structure FiltColumns (i : Instr) (f f' : Filt) : Prop where
  signal : NotWriter i [0x445#32, 0x102#32] → f'.y = f.y ∧ f'.hpState = f.hpState ∧ f'.out = f.out
  cutoff : NotWriter i [0x141#32] → f'.cutoff = f.cutoff
  resonance : NotWriter i [0x142#32] → f'.resonance = f.resonance
  envMod : NotWriter i [0x143#32] → f'.envMod = f.envMod
  fmAmount : NotWriter i [0x144#32] → f'.fmAmount = f.fmAmount
  sampleRate : NotWriter i [0x140#32] → f'.sampleRate = f.sampleRate
  coefs : NotWriter i [0x140#32, 0x141#32, 0x142#32, 0x445#32, 0x102#32] →
    f'.fc = f.fc ∧ f'.coefs = f.coefs

/-- For each way in which the oscillator changes: a register is untouched or the command is listed. -/
theorem OscStep.columns {i : Instr} {o o' : Osc} (h : OscStep i o o') : OscColumns i o o' := by
  cases h with
  | process o hi hsr =>
    rw [oscProcess_unit]
    rcases hi with rfl | ⟨fm, rfl⟩ <;> constructor <;> simp [NotWriter, headerOf]
  | _ => constructor <;> simp [NotWriter, headerOf]

theorem AenvStep.columns {i : Instr} {a a' : Aenv} (h : AenvStep i a a') : AenvColumns i a a' := by
  cases h with
  | process a hi =>
    rw [aenvProcess_unit]
    rcases hi with rfl | ⟨fm, rfl⟩ <;> constructor <;> simp [NotWriter, headerOf]
  | _ => constructor <;> simp [NotWriter, headerOf]

theorem MenvStep.columns {i : Instr} {m m' : Menv} (h : MenvStep i m m') : MenvColumns i m m' := by
  cases h with
  | process m hi =>
    rcases hi with rfl | ⟨fm, rfl⟩ <;> constructor <;> simp [NotWriter, headerOf]
  | _ => constructor <;> simp [NotWriter, headerOf]

theorem FiltStep.columns {i : Instr} {f f' : Filt} (h : FiltStep i f f') : FiltColumns i f f' := by
  cases h with
  | process f hi =>
    rcases hi with ⟨_, _, _, _, rfl⟩ | ⟨fm, rfl⟩ <;> constructor <;> simp [NotWriter, headerOf]
  | _ => constructor <;> simp [NotWriter, headerOf]

/-- Settles O19: the columns of the four tables, each from the ways in which its unit changes. -/
theorem registersAreWrittenOnlyByTheirCommands : Obligations.RegistersAreWrittenOnlyByTheirCommands := by
  intro i s t h
  obtain ⟨so, sa, sm, sf, -⟩ := exec_steps i s t h
  have o := so.columns
  have a := sa.columns
  have m := sm.columns
  have f := sf.columns
  exact ⟨o.phases, o.frequency, o.target, o.glideSteps, o.blend, o.subBlend, o.jc303, o.sampleRate, o.out,
    a.stage, a.level, a.gate, a.attackMs, a.decayMs, a.releaseMs, a.sampleRate, a.attackInc,
    a.decayCoef, a.releaseCoef, m.level, m.decayMs, m.sampleRate, m.decayCoef, f.signal, f.cutoff,
    f.resonance, f.envMod, f.fmAmount, f.sampleRate, f.coefs⟩

/-! ### The gate -/

theorem AenvStep.gate_eq {i : Instr} {a a' : Aenv} (h : AenvStep i a a') (hon : i ≠ .aenvOn)
    (hoff : i ≠ .aenvOff) (hreset : i ≠ .reset) : a'.gate = a.gate := by
  cases h with
  | noteOn => exact absurd rfl hon
  | noteOff => exact absurd rfl hoff
  | reset => exact absurd rfl hreset
  | process => rw [aenvProcess_unit]
  | keep | rate | attack | decay | release => rfl

/-- Settles O21: AENV_ACTIVE reads the gate, which only three commands write. -/
theorem activeReportsTheGate : Obligations.ActiveReportsTheGate := fun s =>
  ⟨rfl, ⟨_, rfl, rfl⟩, ⟨_, rfl, rfl⟩, ⟨_, rfl, rfl⟩, fun i t hon hoff hreset h =>
    (exec_steps i s t h).aenv.gate_eq hon hoff hreset⟩

/-! ### The modulation envelope's level -/

theorem MenvStep.level_le {i : Instr} {m m' : Menv} (h : MenvStep i m m') (hl : inUnit m.level = true)
    (hd : inUnit m.decayCoef = true) (hi : i ≠ .menvTrig) :
    inUnit m'.level = true ∧ m'.level.toRat ≤ m.level.toRat := by
  cases h with
  | keep | rate | decay => exact ⟨hl, le_rfl⟩
  | reset =>
    refine ⟨inUnit_zero, ?_⟩
    rw [show State.reset.menv.level = F64.zero from rfl, toRat_zero]
    exact ((inUnit_iff _).mp hl).2.1
  | trigger => exact absurd rfl hi
  | process =>
    obtain ⟨hmul, hle⟩ := mul_inUnit hl hd
    refine ⟨inUnit_written hmul, ?_⟩
    rwa [written_of_finite (isFinite_of_inUnit hmul)]

/-- Settles O35: the level is kept, set to 0, or multiplied by a coefficient of at most 1. -/
theorem modulationLevelNeverRisesBetweenTriggers :
    Obligations.ModulationLevelNeverRisesBetweenTriggers := by
  refine ⟨fun i s t hl hd hi h => ?_, fun s => ⟨_, rfl, rfl⟩⟩
  obtain ⟨hunit, hle⟩ := (exec_steps i s t h).menv.level_le hl hd hi
  exact ⟨(ge_iff (isFinite_of_inUnit hl) (isFinite_of_inUnit hunit)).mpr hle, hunit⟩

/-! ### STATUS -/

/-- What the sticky bits can be after a command. -/
theorem StickyStep.eq_or {i : Instr} {t t' : Sticky} (h : StickyStep i t t') :
    t' = t ∨ t' = { err := false, multi := false, cause := 0#4 } ∨ ∃ e, t' = recordError e t := by
  cases h with
  | keep => exact .inl rfl
  | record _ e => exact .inr (.inr ⟨e, rfl⟩)
  | reset => exact .inr (.inl rfl)

/-- `CAUSE` stays 0 while `ERR` is 0. -/
theorem StickyStep.cause_eq_zero {i : Instr} {t t' : Sticky} (h : StickyStep i t t')
    (ht : t.err = false → t.cause = 0#4) (herr : t'.err = false) : t'.cause = 0#4 := by
  cases h with
  | keep => exact ht herr
  | record _ e => rw [recordError_err] at herr; contradiction
  | reset => rfl

/-- Only RESET clears a sticky bit. -/
theorem StickyStep.sticks {i : Instr} {t t' : Sticky} (h : StickyStep i t t') (hi : i ≠ .reset) :
    (t.err = true → t'.err = true ∧ t'.cause = t.cause) ∧ (t.multi = true → t'.multi = true) := by
  cases h with
  | keep => exact ⟨fun herr => ⟨herr, rfl⟩, id⟩
  | record _ e =>
    cases herr : t.err
    · simp [recordError_first e t herr]
    · simp [recordError_later e t herr, herr]
  | reset => exact absurd rfl hi

/-- The fields of one bit. -/
theorem statusWord_bits (s : State) :
    (statusWord s).getLsbD 0 = s.sticky.err ∧ (statusWord s).getLsbD 1 = s.sticky.multi ∧
    (statusWord s).getLsbD 8 = s.osc.sampleRate.isSome ∧
    (statusWord s).getLsbD 9 = s.aenv.sampleRate.isSome ∧
    (statusWord s).getLsbD 10 = s.menv.sampleRate.isSome ∧
    (statusWord s).getLsbD 11 = s.filt.sampleRate.isSome ∧
    (statusWord s).getLsbD 14 = s.aenv.gate ∧
    (statusWord s).getLsbD 15 = decide (0 < s.osc.glideSteps) ∧
    (statusWord s).getLsbD 16 = s.osc.jc303 := by
  simp only [statusWord, BitVec.getLsbD_append]
  simp

/-- The wider fields and the reserved bits, bit by bit. -/
theorem statusWord_fields (s : State) :
    (statusWord s).extractLsb' 2 2 = 0#2 ∧ (statusWord s).extractLsb' 4 4 = s.sticky.cause ∧
    (statusWord s).extractLsb' 12 2 = stageCode s.aenv.stage ∧
    (statusWord s).extractLsb' 17 15 = 0#15 := by
  refine ⟨?_, ?_, ?_, ?_⟩
  all_goals
    ext k hk
    simp only [statusWord, BitVec.getElem_extractLsb', BitVec.getLsbD_append]
    interval_cases k <;> simp

theorem recordError_fields (e : ErrCode) (t : Sticky) :
    (recordError e t).err = true ∧
    (t.err = false → (recordError e t).cause = errCode e ∧ (recordError e t).multi = t.multi) ∧
    (t.err = true → (recordError e t).cause = t.cause ∧ (recordError e t).multi = true) := by
  refine ⟨recordError_err e t, fun h => ?_, fun h => ?_⟩
  · rw [recordError_first e t h]; exact ⟨rfl, rfl⟩
  · rw [recordError_later e t h]; exact ⟨rfl, rfl⟩

/-- Settles O13: the word's layout, and the sticky bits by the three ways in which they change. -/
theorem statusWordShowsItsFields : Obligations.StatusWordShowsItsFields := by
  refine ⟨fun s => ?_, by decide +kernel, recordError_fields, fun i s t h => ?_, fun i s t h hi => ?_,
    fun s => ⟨_, rfl, rfl⟩, fun _ => rfl, ⟨rfl, rfl, rfl, rfl⟩, ⟨rfl, rfl, rfl, rfl, rfl, rfl⟩⟩
  · obtain ⟨err, multi, osc, aenv, menv, filt, gate, glide, jc303⟩ := statusWord_bits s
    obtain ⟨low, cause, stage, high⟩ := statusWord_fields s
    exact ⟨err, multi, low, cause, osc, aenv, menv, filt, stage, gate, glide, jc303, high⟩
  · have hsticky := (exec_steps i s t h).sticky
    exact ⟨hsticky.eq_or, hsticky.cause_eq_zero⟩
  · exact (exec_steps i s t h).sticky.sticks hi

end Sys2Proof.Machine

end


/-! ## Reset values and the setters' statements (rules R27, R40, R117, R120, R121, R150 to R154, R180 to
R182 and R293) -/

section

namespace Sys2Proof.Machine

open F64

/-! ### Reset -/

/-- Settles O14: the reset record literal by literal; RESET and the reset input give its registers. -/
theorem resetLeavesTheTableValues : Obligations.ResetLeavesTheTableValues := by
  unfold Obligations.ResetLeavesTheTableValues
  intro z f440 f1 f200 table
  have htable : table State.reset := by
    refine ⟨?_, ?_, ?_, ?_, rfl⟩ <;> decide +kernel
  exact ⟨⟨htable, rfl, rfl⟩, fun s => ⟨⟨_, rfl, htable, rfl, rfl⟩, htable, rfl, rfl⟩⟩

/-! ### The oscillator's setters -/

/-- A setter that overflows nothing writes its unit and nothing else. -/
theorem completeOsc_quiet (s : State) (o : Osc) :
    completeOsc binary64 { unit := o, overflow := false } s = .next { s with osc := o } := by
  simp [completeOsc]

/-- Settles O23. -/
theorem oscFreqRestartsThePeriod : Obligations.OscFreqRestartsThePeriod := by
  intro hz s hw f
  refine ⟨?_, ge_max_right (F64.ofF32_isFinite hw) freqMin_isFinite⟩
  change execOscFreqWith params hz s = _
  rw [execOscFreqWith, withF32_finite hw, params_num, binary64_ofF32, oscSetFrequency_ofF32 hw,
    completeOsc_quiet]

theorem exec_oscBlend {b : Word} (hw : f32Finite b = true) (s : State) :
    exec (.oscBlend b) s =
      .next { s with osc := { s.osc with blend := F64.clamp (F64.ofF32 b) F64.zero F64.one } } := by
  change execOscBlendWith params b s = _
  rw [execOscBlendWith, withF32_finite hw, params_num, binary64_ofF32, oscSetBlend_ofF32 hw,
    completeOsc_quiet]

theorem exec_oscSubblend {b : Word} (hw : f32Finite b = true) (s : State) :
    exec (.oscSubblend b) s =
      .next { s with osc := { s.osc with subBlend := F64.clamp (F64.ofF32 b) F64.zero F64.one } } := by
  change execOscSubblendWith params b s = _
  rw [execOscSubblendWith, withF32_finite hw, params_num, binary64_ofF32, oscSetSubBlend_ofF32 hw,
    completeOsc_quiet]

theorem max_eq_first {a b : F64} (h : F64.lt b a = true) : F64.max a b = a := by
  simp [F64.max, lt_asymm h, h]

theorem max_eq_second {a b : F64} (h : F64.lt a b = true) : F64.max a b = b := by simp [F64.max, h]

theorem min_eq_first {a b : F64} (h : F64.lt a b = true) : F64.min a b = a := by simp [F64.min, h]

/-- Finite values with one sign bit and one value have one pattern. -/
theorem eq_of_isNeg_of_toRat {x y : F64} (hs : x.isNeg = y.isNeg) (h : x.toRat = y.toRat) : x = y := by
  refine ext_mag hs ((gridValue_strictMono 52).injective ?_)
  rw [toRat_eq_units, toRat_eq_units, units, units, hs] at h
  have hε : (2 : ℚ) ^ (-1074 : ℤ) ≠ 0 := by positivity
  have hunits := Int.cast_injective (mul_right_cancel₀ hε h)
  exact_mod_cast mul_left_cancel₀ (signFactor_ne_zero _) hunits

/-- Inside `[0, 1]` clamping keeps the value. -/
theorem toRat_clamp_of_inside {x : F64} (h : inUnit x = true) :
    (F64.clamp x F64.zero F64.one).toRat = x.toRat := by
  obtain ⟨hx, h0, h1⟩ := (inUnit_iff x).mp h
  rw [F64.clamp, toRat_min (max_isFinite hx zero_isFinite) one_isFinite, toRat_max hx zero_isFinite,
    toRat_zero, toRat_one, max_eq_left h0, min_eq_left h1]

/-- With a clear sign bit it keeps the pattern as well: the answer is the value or an end. -/
theorem clamp_of_inside {x : F64} (h : inUnit x = true) (hs : x.isNeg = false) :
    F64.clamp x F64.zero F64.one = x := by
  refine eq_of_isNeg_of_toRat ?_ (toRat_clamp_of_inside h)
  rw [hs, F64.clamp]
  rcases min_cases (F64.max x F64.zero) F64.one with ⟨h, -⟩ | ⟨h, -⟩ <;> rw [h]
  · rcases max_cases x F64.zero with ⟨h, -⟩ | ⟨h, -⟩ <;> rw [h]
    · exact hs
    · decide
  · decide

/-- An operand word of at least 0 has a clear sign bit unless it is the negative zero. -/
theorem ofF32_isNeg_of_nonneg {b : Word} (hw : f32Finite b = true) (h0 : 0 ≤ (F64.ofF32 b).toRat)
    (hb : b ≠ 0x80000000#32) : (F64.ofF32 b).isNeg = false := by
  obtain ⟨hval, hneg⟩ := ofF32_exact hw
  rw [hneg]
  cases hmsb : b.msb
  · rfl
  rw [hval, wordToRat_eq, hmsb] at h0
  have hgrid : (gridValue 23 (b.toNat % 2 ^ 31) : ℚ) ≤ 0 := by
    have := nonneg_of_mul_nonneg_left h0 (show (0 : ℚ) < 2 ^ (-149 : ℤ) by positivity)
    simpa using this
  have hmag : b.toNat % 2 ^ 31 = 0 := (gridValue_strictMono 23).injective
    (by rw [gridValue_zero]; exact_mod_cast le_antisymm hgrid (Nat.cast_nonneg _))
  refine absurd ?_ hb
  rw [← wordOf_self b, hmsb, hmag]
  rfl

/-- Settles O26. -/
theorem blendsAreClamped : Obligations.BlendsAreClamped := by
  intro b s hw v
  have hfin := F64.ofF32_isFinite hw
  refine ⟨exec_oscBlend hw s, exec_oscSubblend hw s, inUnit_clamp hfin, fun h0 h1 => ?_, fun h => ?_,
    fun h => ?_⟩
  · have hinside : inUnit (F64.ofF32 b) = true := by simp [inUnit, hfin, h0, h1]
    exact ⟨toRat_clamp_of_inside hinside, fun hb => clamp_of_inside hinside
      (ofF32_isNeg_of_nonneg hw ((ge_zero_iff hfin).mp h0) hb)⟩
  · have hpos : F64.lt F64.zero (F64.ofF32 b) = true := by
      rw [lt_iff zero_isFinite hfin, toRat_zero]
      rw [lt_iff one_isFinite hfin, toRat_one] at h
      exact one_pos.trans h
    change F64.min (F64.max _ _) _ = _
    rw [max_eq_first hpos, min_eq_second h]
  · change F64.min (F64.max _ _) _ = _
    rw [max_eq_second h, min_eq_first (by decide)]

/-! ### The envelopes' setters -/

theorem completeAenv_quiet (s : State) (a : Aenv) :
    completeAenv binary64 { unit := a, overflow := false } s = .next { s with aenv := a } := by
  simp [completeAenv]

theorem completeMenv_quiet (s : State) (m : Menv) :
    completeMenv binary64 { unit := m, overflow := false } s = .next { s with menv := m } := by
  simp [completeMenv]

theorem completeAenv_record (s : State) (a : Aenv) (regs : List F64) :
    completeAenv binary64 { unit := a, overflow := anyNonfinite binary64 regs } s =
      .next { s with aenv := a, sticky := stickyAfter regs [] s.sticky } := by
  rw [completeAenv, complete_setter]

theorem completeMenv_record (s : State) (m : Menv) (regs : List F64) :
    completeMenv binary64 { unit := m, overflow := anyNonfinite binary64 regs } s =
      .next { s with menv := m, sticky := stickyAfter regs [] s.sticky } := by
  rw [completeMenv, complete_setter]

/-- Settles O29. -/
theorem aenvSrRecomputesTheCoefficients : Obligations.AenvSrRecomputesTheCoefficients := by
  intro hz s hw a sr samples inc coef
  change execAenvSrWith params hz s = _
  rw [execAenvSrWith, withF32_finite hw, params_num, binary64_ofF32, aenvSetRate_ofF32 hw]
  simp only [completeAenv_record, attackIncOf_binary64, decayCoefOf_params]
  rfl

section Times

variable {ms : Word} (hw : f32Finite ms = true) (s : State)

include hw

theorem exec_aenvAtk :
    exec (.aenvAtk ms) s = completeAenv binary64 (aenvSetAttack binary64 (F64.ofF32 ms) s.aenv) s := by
  change execAenvAtkWith params ms s = _
  rw [execAenvAtkWith, withF32_finite hw, params_num, binary64_ofF32]

theorem exec_aenvDec :
    exec (.aenvDec ms) s = completeAenv binary64 (aenvSetDecay params (F64.ofF32 ms) s.aenv) s := by
  change execAenvDecWith params ms s = _
  rw [execAenvDecWith, withF32_finite hw, params_num, binary64_ofF32]

theorem exec_aenvRel :
    exec (.aenvRel ms) s = completeAenv binary64 (aenvSetRelease params (F64.ofF32 ms) s.aenv) s := by
  change execAenvRelWith params ms s = _
  rw [execAenvRelWith, withF32_finite hw, params_num, binary64_ofF32]

theorem exec_menvDec :
    exec (.menvDec ms) s = completeMenv binary64 (menvSetDecay params (F64.ofF32 ms) s.menv) s := by
  change execMenvDecWith params ms s = _
  rw [execMenvDecWith, withF32_finite hw, params_num, binary64_ofF32]

end Times

/-- The two cases of each time's setter: the rate `unset`, and set. -/
theorem aenvSetAttack_unset {a : Aenv} (h : a.sampleRate = none) (v : F64) :
    aenvSetAttack binary64 v a = { unit := { a with attackMs := v }, overflow := false } := by
  simp [aenvSetAttack, h]

theorem aenvSetAttack_set {a : Aenv} {sr : F64} (h : a.sampleRate = some sr) (v : F64) :
    aenvSetAttack binary64 v a =
      { unit := { a with attackMs := v, attackInc := written (attackIncOf binary64 sr v) }
        overflow := anyNonfinite binary64 [attackIncOf binary64 sr v] } := by
  simp [aenvSetAttack, h]

theorem aenvSetDecay_unset {a : Aenv} (h : a.sampleRate = none) (v : F64) :
    aenvSetDecay params v a = { unit := { a with decayMs := v }, overflow := false } := by
  simp [aenvSetDecay, h]

theorem aenvSetDecay_set {a : Aenv} {sr : F64} (h : a.sampleRate = some sr) (v : F64) :
    aenvSetDecay params v a =
      { unit := { a with decayMs := v, decayCoef := written (decayCoefOf params sr v) }
        overflow := anyNonfinite binary64 [decayCoefOf params sr v] } := by
  simp [aenvSetDecay, h]

theorem aenvSetRelease_unset {a : Aenv} (h : a.sampleRate = none) (v : F64) :
    aenvSetRelease params v a = { unit := { a with releaseMs := v }, overflow := false } := by
  simp [aenvSetRelease, h]

theorem aenvSetRelease_set {a : Aenv} {sr : F64} (h : a.sampleRate = some sr) (v : F64) :
    aenvSetRelease params v a =
      { unit := { a with releaseMs := v, releaseCoef := written (decayCoefOf params sr v) }
        overflow := anyNonfinite binary64 [decayCoefOf params sr v] } := by
  simp [aenvSetRelease, h]

theorem menvSetDecay_unset {m : Menv} (h : m.sampleRate = none) (v : F64) :
    menvSetDecay params v m = { unit := { m with decayMs := v }, overflow := false } := by
  simp [menvSetDecay, h]

theorem menvSetDecay_set {m : Menv} {sr : F64} (h : m.sampleRate = some sr) (v : F64) :
    menvSetDecay params v m =
      { unit := { m with decayMs := v, decayCoef := written (decayCoefOf params sr v) }
        overflow := anyNonfinite binary64 [decayCoefOf params sr v] } := by
  simp [menvSetDecay, h]

/-- Settles O30: each setter with its rate `unset`, then with it set. -/
theorem aenvTimesAreStoredAsGiven : Obligations.AenvTimesAreStoredAsGiven := by
  intro ms s hw a v
  rw [exec_aenvAtk hw, exec_aenvDec hw, exec_aenvRel hw]
  constructor
  · intro hsr
    rw [aenvSetAttack_unset hsr, aenvSetDecay_unset hsr, aenvSetRelease_unset hsr]
    exact ⟨completeAenv_quiet .., completeAenv_quiet .., completeAenv_quiet ..⟩
  · intro sr hsr inc coef
    rw [aenvSetAttack_set hsr, aenvSetDecay_set hsr, aenvSetRelease_set hsr]
    simp only [completeAenv_record, attackIncOf_binary64, decayCoefOf_params]
    exact ⟨rfl, rfl, rfl⟩

/-- Settles O33. -/
theorem menvSettersRecomputeTheCoefficient : Obligations.MenvSettersRecomputeTheCoefficient := by
  intro w s hw m v coef rate
  rw [exec_menvDec hw]
  refine ⟨?_, fun hsr => ?_, fun sr hsr => ?_⟩
  · change execMenvSrWith params w s = _
    rw [execMenvSrWith, withF32_finite hw, params_num, binary64_ofF32, menvSetRate_ofF32 hw]
    simp only [completeMenv_record, decayCoefOf_params]
    rfl
  · rw [menvSetDecay_unset hsr]
    exact completeMenv_quiet ..
  · rw [menvSetDecay_set hsr, completeMenv_record, decayCoefOf_params]

end Sys2Proof.Machine

end


/-! ## A setter and its unit's rate (rules R41 and R293) -/

section

namespace Sys2Proof.Machine

/-! ### Commands as maps of the units -/

/-- The four units. -/
abbrev FourUnits := Osc × Aenv × Menv × Filt

def unitsOf (s : State) : FourUnits := (s.osc, s.aenv, s.menv, s.filt)

def onOsc (F : Osc → Osc) : FourUnits → FourUnits := fun (o, a, m, f) => (F o, a, m, f)
def onAenv (F : Aenv → Aenv) : FourUnits → FourUnits := fun (o, a, m, f) => (o, F a, m, f)
def onMenv (F : Menv → Menv) : FourUnits → FourUnits := fun (o, a, m, f) => (o, a, F m, f)
def onFilt (F : Filt → Filt) : FourUnits → FourUnits := fun (o, a, m, f) => (o, a, m, F f)

theorem onOsc_commute {F G : Osc → Osc} (h : Function.Commute F G) :
    Function.Commute (onOsc F) (onOsc G) := fun (o, a, m, f) => by simp [onOsc, h o]

theorem onAenv_commute {F G : Aenv → Aenv} (h : Function.Commute F G) :
    Function.Commute (onAenv F) (onAenv G) := fun (o, a, m, f) => by simp [onAenv, h a]

theorem onMenv_commute {F G : Menv → Menv} (h : Function.Commute F G) :
    Function.Commute (onMenv F) (onMenv G) := fun (o, a, m, f) => by simp [onMenv, h m]

theorem onFilt_commute {F G : Filt → Filt} (h : Function.Commute F G) :
    Function.Commute (onFilt F) (onFilt G) := fun (o, a, m, f) => by simp [onFilt, h f]

/-- The outcome is a next state with these units. -/
def YieldsUnits (r : Result) (u : FourUnits) : Prop := ∃ t, r = .next t ∧ unitsOf t = u

/-- In every state the command completes or is dropped, and maps the units by `f`. -/
def ActsAs (i : Instr) (f : FourUnits → FourUnits) : Prop := ∀ s, YieldsUnits (exec i s) (f (unitsOf s))

/-- Commands whose maps commute leave the same units in either order. -/
theorem ActsAs.sameUnits {i j : Instr} {f g : FourUnits → FourUnits} (hi : ActsAs i f) (hj : ActsAs j g)
    (h : Function.Commute f g) (s : State) :
    ∃ t u, runCommands [i, j] s = .next t ∧ runCommands [j, i] s = .next u ∧ sameUnits t u := by
  obtain ⟨si, hsi, hfi⟩ := hi s
  obtain ⟨t, ht, hgt⟩ := hj si
  obtain ⟨sj, hsj, hgj⟩ := hj s
  obtain ⟨u, hu, hfu⟩ := hi sj
  refine ⟨t, u, by simp [runCommands, hsi, ht], by simp [runCommands, hsj, hu], ?_⟩
  have hunits : unitsOf t = unitsOf u := by rw [hgt, hfi, hfu, hgj, h (unitsOf s)]
  simpa [unitsOf, Machine.sameUnits] using hunits

/-! ### The checks -/

/-- What a command with the operand word `w` does to the units: nothing where it is dropped. -/
def guarded (w : Word) (f : FourUnits → FourUnits) : FourUnits → FourUnits := if f32Finite w then f else id

theorem guarded_commute {v w : Word} {f g : FourUnits → FourUnits} (h : Function.Commute f g) :
    Function.Commute (guarded v f) (guarded w g) := by
  unfold guarded
  split
  · split
    · exact h
    · exact Function.Commute.id_right
  · exact Function.Commute.id_left

/-- A command that takes one `F32` operand and then maps the units. -/
theorem actsAs_withF32 {i : Instr} {w : Word} {f : FourUnits → FourUnits} {run : State → F64 → Result}
    (h : ∀ s, exec i s = withF32 binary64 w 0 s (run s))
    (hrun : ∀ s, YieldsUnits (run s (F64.ofF32 w)) (f (unitsOf s))) : ActsAs i (guarded w f) := by
  intro s
  rw [h s]
  cases hw : f32Finite w
  · exact ⟨_, withF32_nonfinite hw, by simp [guarded, hw, unitsOf]⟩
  · rw [withF32_finite hw]
    simpa [guarded, hw] using hrun s

theorem actsAs_osc {i : Instr} {w : Word} (F : F64 → Osc → Update Osc)
    (h : ∀ s, exec i s = withF32 binary64 w 0 s fun v => completeOsc binary64 (F v s.osc) s) :
    ActsAs i (guarded w (onOsc fun o => (F (F64.ofF32 w) o).unit)) :=
  actsAs_withF32 h fun _ => ⟨_, rfl, by simp [unitsOf, onOsc]⟩

theorem actsAs_aenv {i : Instr} {w : Word} (F : F64 → Aenv → Update Aenv)
    (h : ∀ s, exec i s = withF32 binary64 w 0 s fun v => completeAenv binary64 (F v s.aenv) s) :
    ActsAs i (guarded w (onAenv fun a => (F (F64.ofF32 w) a).unit)) :=
  actsAs_withF32 h fun _ => ⟨_, rfl, by simp [unitsOf, onAenv]⟩

theorem actsAs_menv {i : Instr} {w : Word} (F : F64 → Menv → Update Menv)
    (h : ∀ s, exec i s = withF32 binary64 w 0 s fun v => completeMenv binary64 (F v s.menv) s) :
    ActsAs i (guarded w (onMenv fun m => (F (F64.ofF32 w) m).unit)) :=
  actsAs_withF32 h fun _ => ⟨_, rfl, by simp [unitsOf, onMenv]⟩

theorem actsAs_filt {i : Instr} {w : Word} (F : F64 → Filt → Update Filt)
    (h : ∀ s, exec i s = withF32 binary64 w 0 s fun v => completeFilt binary64 (F v s.filt) s) :
    ActsAs i (guarded w (onFilt fun f => (F (F64.ofF32 w) f).unit)) :=
  actsAs_withF32 h fun _ => ⟨_, rfl, by simp [unitsOf, onFilt]⟩

/-- FILT_ENVMOD and FILT_FMAMT: a write that computes nothing. -/
theorem actsAs_filtStore {i : Instr} {w : Word} (F : F64 → Filt → Filt)
    (h : ∀ s, exec i s = withF32 binary64 w 0 s fun v => .next { s with filt := F v s.filt }) :
    ActsAs i (guarded w (onFilt (F (F64.ofF32 w)))) :=
  actsAs_withF32 h fun _ => ⟨_, rfl, rfl⟩

/-- What OSC_WAVE and OSC_JC303 do to the units: nothing for any word but 0 and 1. -/
def switched (w : Word) (F : Bool → Osc → Osc) : FourUnits → FourUnits :=
  match zeroOrOne w with
  | some b => onOsc (F b)
  | none => id

theorem switched_commute {v w : Word} {F : Bool → Osc → Osc} {G : Osc → Osc}
    (h : ∀ b, Function.Commute (F b) G) :
    Function.Commute (switched v F) (guarded w (onOsc G)) := by
  unfold switched guarded
  split
  · split
    · exact onOsc_commute (h _)
    · exact Function.Commute.id_right
  · exact Function.Commute.id_left

theorem actsAs_switch {i : Instr} {w : Word} (F : Bool → Osc → Osc)
    (h : ∀ s, exec i s = withU32 (zeroOrOne w) 0 s fun b => .next { s with osc := F b s.osc }) :
    ActsAs i (switched w F) := by
  intro s
  rw [h s]
  unfold switched
  cases zeroOrOne w with
  | none => exact ⟨_, rfl, rfl⟩
  | some b => exact ⟨_, rfl, rfl⟩

theorem actsAs_oscSr (w : Word) :
    ActsAs (.oscSr w) (guarded w (onOsc fun o => (oscSetRate params (F64.ofF32 w) o).unit)) :=
  actsAs_osc (oscSetRate params) fun _ => rfl

theorem actsAs_aenvSr (w : Word) :
    ActsAs (.aenvSr w) (guarded w (onAenv fun a => (aenvSetRate params (F64.ofF32 w) a).unit)) :=
  actsAs_aenv (aenvSetRate params) fun _ => rfl

theorem actsAs_menvSr (w : Word) :
    ActsAs (.menvSr w) (guarded w (onMenv fun m => (menvSetRate params (F64.ofF32 w) m).unit)) :=
  actsAs_menv (menvSetRate params) fun _ => rfl

theorem actsAs_filtSr (w : Word) :
    ActsAs (.filtSr w) (guarded w (onFilt fun f => (filtSetRate params (F64.ofF32 w) f).unit)) :=
  actsAs_filt (filtSetRate params) fun _ => rfl

/-! ### The units' operations -/

section Operations

variable (v hz : F64)

theorem aenvSetAttack_commute : Function.Commute (fun a => (aenvSetAttack binary64 v a).unit)
    fun a => (aenvSetRate params hz a).unit := fun a => by
  simp only [aenvSetAttack_unit, aenvSetRate, params_num, settle_binary64, recomputed_some]

theorem aenvSetDecay_commute : Function.Commute (fun a => (aenvSetDecay params v a).unit)
    fun a => (aenvSetRate params hz a).unit := fun a => by
  simp only [aenvSetDecay_unit, aenvSetRate, params_num, settle_binary64, recomputed_some]

theorem aenvSetRelease_commute : Function.Commute (fun a => (aenvSetRelease params v a).unit)
    fun a => (aenvSetRate params hz a).unit := fun a => by
  simp only [aenvSetRelease_unit, aenvSetRate, params_num, settle_binary64, recomputed_some]

theorem menvSetDecay_commute : Function.Commute (fun m => (menvSetDecay params v m).unit)
    fun m => (menvSetRate params hz m).unit := fun m => by
  simp only [menvSetDecay_unit, menvSetRate, params_num, settle_binary64, recomputed_some]

/-- `configureFilt` computes the derived registers afresh from the parameters. -/
theorem filtSetRate_reconfigure (f : Filt) :
    (filtSetRate params hz (reconfigureFilt params f).unit).unit = (filtSetRate params hz f).unit := by
  obtain ⟨fc, b0, k, g, h⟩ := reconfigureFilt_unit f
  rw [h]
  rfl

theorem reconfigureFilt_commute (store : Filt → Filt)
    (h : ∀ f, (reconfigureFilt params (store (filtSetRate params hz f).unit)).unit =
      (filtSetRate params hz (store f)).unit) :
    Function.Commute (fun f => (reconfigureFilt params (store f)).unit)
      fun f => (filtSetRate params hz f).unit := fun f =>
  (h f).trans (filtSetRate_reconfigure hz (store f)).symm

theorem filtSetCutoff_commute : Function.Commute (fun f => (filtSetCutoff params v f).unit)
    fun f => (filtSetRate params hz f).unit :=
  reconfigureFilt_commute hz (fun f => { f with cutoff := v }) fun _ => rfl

theorem filtSetResonance_commute : Function.Commute (fun f => (filtSetResonance params v f).unit)
    fun f => (filtSetRate params hz f).unit :=
  reconfigureFilt_commute hz
    (fun f => { f with resonance := settle params.num (params.num.max params.num.zero v) }) fun _ => rfl

theorem filtSetEnvMod_commute : Function.Commute (filtSetEnvMod v)
    fun f => (filtSetRate params hz f).unit := fun _ => rfl

theorem filtSetFmAmount_commute : Function.Commute (filtSetFmAmount v)
    fun f => (filtSetRate params hz f).unit := fun _ => rfl

theorem oscSetBlend_commute : Function.Commute (fun o => (oscSetBlend binary64 v o).unit)
    fun o => (oscSetRate params hz o).unit := fun _ => rfl

theorem oscSetSubBlend_commute : Function.Commute (fun o => (oscSetSubBlend binary64 v o).unit)
    fun o => (oscSetRate params hz o).unit := fun _ => rfl

theorem oscSetWave_commute (square : Bool) : Function.Commute (oscSetWave binary64 square)
    fun o => (oscSetRate params hz o).unit := fun _ => rfl

theorem oscSetMode_commute (on : Bool) : Function.Commute (fun o : Osc => { o with jc303 := on })
    fun o => (oscSetRate params hz o).unit := fun _ => rfl

end Operations

/-- Settles O45: each pair writes one unit, and its two operations commute. -/
theorem settersCommuteWithTheRate : Obligations.SettersCommuteWithTheRate := by
  intro v hz s
  simp only [List.forall_mem_cons]
  refine ⟨?_, ?_, ?_, ?_, ?_, ?_, ?_, ?_, ?_, ?_, ?_, ?_, by simp⟩
  · exact (actsAs_aenv (aenvSetAttack binary64) fun _ => rfl).sameUnits (actsAs_aenvSr hz)
      (guarded_commute (onAenv_commute (aenvSetAttack_commute _ _))) s
  · exact (actsAs_aenv (aenvSetDecay params) fun _ => rfl).sameUnits (actsAs_aenvSr hz)
      (guarded_commute (onAenv_commute (aenvSetDecay_commute _ _))) s
  · exact (actsAs_aenv (aenvSetRelease params) fun _ => rfl).sameUnits (actsAs_aenvSr hz)
      (guarded_commute (onAenv_commute (aenvSetRelease_commute _ _))) s
  · exact (actsAs_menv (menvSetDecay params) fun _ => rfl).sameUnits (actsAs_menvSr hz)
      (guarded_commute (onMenv_commute (menvSetDecay_commute _ _))) s
  · exact (actsAs_filt (filtSetCutoff params) fun _ => rfl).sameUnits (actsAs_filtSr hz)
      (guarded_commute (onFilt_commute (filtSetCutoff_commute _ _))) s
  · exact (actsAs_filt (filtSetResonance params) fun _ => rfl).sameUnits (actsAs_filtSr hz)
      (guarded_commute (onFilt_commute (filtSetResonance_commute _ _))) s
  · exact (actsAs_filtStore filtSetEnvMod fun _ => rfl).sameUnits (actsAs_filtSr hz)
      (guarded_commute (onFilt_commute (filtSetEnvMod_commute _ _))) s
  · exact (actsAs_filtStore filtSetFmAmount fun _ => rfl).sameUnits (actsAs_filtSr hz)
      (guarded_commute (onFilt_commute (filtSetFmAmount_commute _ _))) s
  · exact (actsAs_osc (oscSetBlend binary64) fun _ => rfl).sameUnits (actsAs_oscSr hz)
      (guarded_commute (onOsc_commute (oscSetBlend_commute _ _))) s
  · exact (actsAs_osc (oscSetSubBlend binary64) fun _ => rfl).sameUnits (actsAs_oscSr hz)
      (guarded_commute (onOsc_commute (oscSetSubBlend_commute _ _))) s
  · exact (actsAs_switch (oscSetWave binary64) fun _ => rfl).sameUnits (actsAs_oscSr hz)
      (switched_commute (oscSetWave_commute _)) s
  · exact (actsAs_switch (fun on o => { o with jc303 := on }) fun _ => rfl).sameUnits
      (actsAs_oscSr hz) (switched_commute (oscSetMode_commute _)) s

end Sys2Proof.Machine

end


/-! ## The byte transport and framing (rules R62 to R64, R66 and R82) -/

section

namespace Sys2Proof.Machine

/-! ### Words as bytes -/

/-- The four bytes of a word, least significant first, carry that word. -/
theorem wordOfBytes_byteOfWord (w : Word) :
    wordOfBytes (byteOfWord w 0) (byteOfWord w 1) (byteOfWord w 2) (byteOfWord w 3) = w := by
  apply BitVec.eq_of_toNat_eq
  have hw : w.toNat < 2 ^ 32 := w.isLt
  simp only [wordOfBytes, byteOfWord, BitVec.toNat_ofNat]
  omega

theorem wordsOfBytes_of_short {bs : List Byte} (h : bs.length < 4) : wordsOfBytes bs = [] := by
  match bs, h with
  | [], _ | [_], _ | [_, _], _ | [_, _, _], _ => rfl

theorem restOfBytes_of_short {bs : List Byte} (h : bs.length < 4) : restOfBytes bs = bs := by
  match bs, h with
  | [], _ | [_], _ | [_, _], _ | [_, _, _], _ => rfl

/-- Words laid out as bytes are read back, whatever bytes follow. -/
theorem wordsOfBytes_bytesOfWords_append (ws : List Word) (tail : List Byte) :
    wordsOfBytes (bytesOfWords ws ++ tail) = ws ++ wordsOfBytes tail := by
  induction ws with
  | nil => rfl
  | cons w ws ih =>
    simp only [bytesOfWords, List.cons_append, wordsOfBytes, wordOfBytes_byteOfWord, ih]

theorem restOfBytes_bytesOfWords_append (ws : List Word) (tail : List Byte) :
    restOfBytes (bytesOfWords ws ++ tail) = restOfBytes tail := by
  induction ws with
  | nil => rfl
  | cons w ws ih => simpa only [bytesOfWords, List.cons_append, restOfBytes] using ih

/-- Bytes in two pieces: the second piece is read behind what the first left over. -/
theorem wordsOfBytes_append : ∀ first later : List Byte, wordsOfBytes (first ++ later) =
    wordsOfBytes first ++ wordsOfBytes (restOfBytes first ++ later)
  | _ :: _ :: _ :: _ :: rest, later => by
    simp only [List.cons_append, wordsOfBytes, restOfBytes, wordsOfBytes_append rest later]
  | [], _ | [_], _ | [_, _], _ | [_, _, _], _ => rfl

theorem restOfBytes_append : ∀ first later : List Byte,
    restOfBytes (first ++ later) = restOfBytes (restOfBytes first ++ later)
  | _ :: _ :: _ :: _ :: rest, later => by
    simp only [List.cons_append, restOfBytes, restOfBytes_append rest later]
  | [], _ | [_], _ | [_, _], _ | [_, _, _], _ => rfl

/-! ### The transport -/

/-- Words offered in two pieces stand on the port as if offered at once. -/
theorem offer_offer (s : State) (ws ws' : List Word) : (s.offer ws).offer ws' = s.offer (ws ++ ws') := by
  cases h : s.resetIn
  · rw [offer_of_released (by simpa using h), offer_of_released h, offer_of_released h, List.append_assoc]
  · simp only [offer_of_resetIn h]

/-- Settles O3: the byte lists are read four at a time. -/
theorem wordsSurviveByteTransport : Obligations.WordsSurviveByteTransport := by
  refine ⟨fun ws tail htail => ⟨?_, ?_⟩, fun s first later => ?_⟩
  · rw [wordsOfBytes_bytesOfWords_append, wordsOfBytes_of_short htail, List.append_nil]
  · rw [restOfBytes_bytesOfWords_append, restOfBytes_of_short htail]
  · simp only [State.offerBytes, offer_offer, ← wordsOfBytes_append, ← restOfBytes_append]

/-! ### A step on a whole command -/

/-- A stream that decodes holds a header, the operand words it announces, and the rest. -/
theorem decodeWords_ok {ws rest : List Word} {i : Instr} (h : decodeWords ws = .ok (i, rest)) :
    ∃ hd ops, ws = hd :: (ops ++ rest) ∧ ops.length = nwField hd ∧ decodeCommand hd ops = .ok i := by
  cases ws with
  | nil => simp [decodeWords] at h
  | cons hd tail =>
    by_cases hlen : tail.length < nwField hd
    · simp [decodeWords, hlen] at h
    · cases hdec : decodeCommand hd (tail.take (nwField hd)) with
      | error r => simp [decodeWords, hlen, hdec] at h
      | ok j =>
        simp only [decodeWords, hlen, hdec, if_false, Except.ok.injEq, Prod.mk.injEq] at h
        obtain ⟨rfl, rfl⟩ := h
        refine ⟨hd, _, by rw [List.take_append_drop], ?_, hdec⟩
        rw [List.length_take]
        omega

/-- One step on a whole command at the front of the port. -/
theorem step_of_decodeCommand {s : State} {h : Word} {ops rest : List Word} {i : Instr}
    (hreset : s.resetIn = false) (hframing : s.framing = .waiting)
    (hport : s.cmdPort = h :: (ops ++ rest)) (hlen : ops.length = nwField h)
    (hdec : decodeCommand h ops = .ok i) : step s = exec i { s with cmdPort := rest } := by
  have haccept : acceptCommand s = (some (h, ops), { s with cmdPort := rest }) := by
    rw [acceptCommand_whole hframing hport hlen, hframing]
  simp [step, stepBy, hreset, haccept, hdec]

/-- Settles O5: the words on the port are taken apart as the decoder takes them. -/
theorem stepRunsDecodedCommand : Obligations.StepRunsDecodedCommand := by
  intro s i rest hreset hframing hdecode
  obtain ⟨h, ops, hport, hlen, hdec⟩ := decodeWords_ok hdecode
  exact step_of_decodeCommand hreset hframing hport hlen hdec

end Sys2Proof.Machine

end


/-! ## The response port (rules R61, R67, R90 and R243) -/

section

namespace Sys2Proof.Machine

/-! ### How many words a command emits -/

/-- The outcome is a next state with `n` more words at the end of the response port. -/
def Emits (n : Nat) (s : State) (r : Result) : Prop :=
  ∃ t ws, r = .next t ∧ t.resp = s.resp ++ ws ∧ ws.length = n

theorem emits_zero {s t : State} (h : t.resp = s.resp := by rfl) : Emits 0 s (.next t) :=
  ⟨t, [], rfl, by rw [h, List.append_nil], rfl⟩

theorem emits_emitWords (ws : List Word) (s : State) : Emits ws.length s (.next (emitWords ws s)) :=
  ⟨_, ws, rfl, rfl, rfl⟩

theorem emits_dropCommand (e : ErrCode) (n : Nat) (s : State) :
    Emits n s (.next (dropCommand e n s)) :=
  ⟨_, _, rfl, dropCommand_resp e n s, List.length_replicate⟩

theorem emits_complete {n : Nat} {s t : State} (N : Arith) (b : Bool) (out : List F64)
    (hlen : out.length = n := by rfl) (h : t.resp = s.resp := by rfl) :
    Emits n s (.next (complete N b out t)) :=
  ⟨_, out.map N.r32, rfl, by rw [complete_resp, h], by rw [List.length_map, hlen]⟩

theorem emits_withF32 {n : Nat} {N : Arith} {w : Word} {s : State} {run : F64 → Result}
    (h : ∀ v, Emits n s (run v)) : Emits n s (withF32 N w n s run) := by
  cases hw : f32Finite w
  · rw [withF32_nonfinite hw]; exact emits_dropCommand ..
  · rw [withF32_finite hw]; exact h _

theorem emits_withU32 {α : Type} {n : Nat} {m : Option α} {s : State} {run : α → Result}
    (h : ∀ v, Emits n s (run v)) : Emits n s (withU32 m n s run) := by
  cases m with
  | none => exact emits_dropCommand ..
  | some v => exact h v

theorem emits_withRate {n : Nat} {r : Option F64} {s : State} {run : F64 → Result}
    (h : ∀ sr, Emits n s (run sr)) : Emits n s (withRate r n s run) := by
  cases r with
  | none => exact emits_dropCommand ..
  | some sr => exact h sr

theorem emits_emitRegister (N : Arith) (v : RegValue) (s : State) :
    Emits 1 s (.next (emitRegister N v s)) := by
  cases v with
  | u32 w => exact emits_emitWords [w] s
  | real x => exact emits_complete N false [x]

/-- Rule R90: every command emits as many words as its table row says, completed or dropped. -/
theorem exec_emits (i : Instr) (s : State) : Emits i.respCount s (exec i s) := by
  rw [exec_eq_execWith]
  cases i with
  | nop | reset | oscPhrst | aenvOn | aenvOff | menvTrig => exact emits_zero
  | tick fm =>
    simp only [execWith, execTickWith]
    exact emits_withF32 fun _ => emits_withRate fun _ => emits_withRate fun _ =>
      emits_withRate fun _ => emits_withRate fun _ => emits_complete ..
  | peek index => exact emits_withU32 fun v => emits_emitRegister _ v s
  | oscSr w | oscFreq w | oscBlend w | oscSubblend w =>
    simp only [execWith, execOscSrWith, execOscFreqWith, execOscBlendWith, execOscSubblendWith]
    exact emits_withF32 fun _ => emits_complete ..
  | aenvSr w | aenvAtk w | aenvDec w | aenvRel w =>
    simp only [execWith, execAenvSrWith, execAenvAtkWith, execAenvDecWith, execAenvRelWith]
    exact emits_withF32 fun _ => emits_complete ..
  | menvSr w | menvDec w =>
    simp only [execWith, execMenvSrWith, execMenvDecWith]
    exact emits_withF32 fun _ => emits_complete ..
  | filtSr w | filtCut w | filtRes w =>
    simp only [execWith, execFiltSrWith, execFiltCutWith, execFiltResWith]
    exact emits_withF32 fun _ => emits_complete ..
  | filtEnvmod w | filtFmamt w =>
    simp only [execWith, execFiltEnvmodWith, execFiltFmamtWith]
    exact emits_withF32 fun _ => emits_zero
  | oscGlide hz ms =>
    simp only [execWith, execOscGlideWith]
    exact emits_withF32 fun _ => emits_withF32 fun _ => emits_withRate fun _ =>
      emits_complete ..
  | oscWave w | oscJc303 w => exact emits_withU32 fun _ => emits_zero
  | oscProc | aenvProc | menvProc => exact emits_withRate fun _ => emits_complete ..
  | aenvActive => exact emits_emitWords [_] s
  | filtProc input env acc fm =>
    simp only [execWith, execFiltProcWith]
    exact emits_withF32 fun _ => emits_withF32 fun _ => emits_withF32 fun _ => emits_withF32 fun _ =>
      emits_withRate fun _ => emits_complete ..

/-- Settles O11: each command appends its own words. -/
theorem responsesStayInCommandOrder : Obligations.ResponsesStayInCommandOrder := by
  intro i j s
  obtain ⟨t, wi, hi, hrespi, hleni⟩ := exec_emits i s
  obtain ⟨u, wj, hj, hrespj, hlenj⟩ := exec_emits j t
  exact ⟨t, u, wi, wj, hi, hj, hrespi, hleni, by rw [hrespj, hrespi], hlenj⟩

/-! ### PEEK -/

/-- PEEK of an integer register. -/
theorem exec_peek_u32 {s : State} {index w : Word} (h : readRegister s index.toNat = some (.u32 w)) :
    exec (.peek index) s = .next { s with resp := s.resp ++ [w] } := by
  change execPeekWith params index s = _
  rw [execPeekWith, h]
  rfl

/-- PEEK of a real register. -/
theorem exec_peek_real {s : State} {index : Word} {x : F64}
    (h : readRegister s index.toNat = some (.real x)) :
    exec (.peek index) s = .next
      { s with resp := s.resp ++ [F64.r32 x], sticky := stickyAfter [] [x] s.sticky } := by
  change execPeekWith params index s = _
  rw [execPeekWith, h]
  exact congrArg _ (complete_stickyAfter [] [x] s)

/-- PEEK of an index without a register. -/
theorem exec_peek_none {s : State} {index : Word} (h : readRegister s index.toNat = none) :
    exec (.peek index) s = .next
      { s with resp := s.resp ++ [0x7FC00000#32], sticky := recordError .operand s.sticky } := by
  change execPeekWith params index s = _
  rw [execPeekWith, h]
  rfl

/-- PEEK of a sample rate: the word 0 while it is `unset`, else as a real register. -/
theorem exec_peek_rate {s : State} {index : Word} {rate : Option F64}
    (h : readRegister s index.toNat = some (rateValue rate)) :
    (rate = none → exec (.peek index) s = .next { s with resp := s.resp ++ [0#32] }) ∧
    (∀ sr, rate = some sr → exec (.peek index) s = .next
      { s with resp := s.resp ++ [F64.r32 sr], sticky := stickyAfter [] [sr] s.sticky }) := by
  refine ⟨?_, ?_⟩
  · rintro rfl; exact exec_peek_u32 h
  · rintro sr rfl; exact exec_peek_real h

/-- Settles O41: the register map is looked up at each assigned index. -/
theorem peekReadsEveryRegister : Obligations.PeekReadsEveryRegister := by
  refine fun s => ⟨fun p hp => exec_peek_u32 ?_, fun p hp => exec_peek_real ?_,
    fun p hp => exec_peek_rate ?_, fun index hindex => exec_peek_none ?_⟩
  · revert p; simp [readRegister]
  · revert p; simp [readRegister]
  · revert p; simp [readRegister]
  · simpa [← readRegister_isSome s index] using hindex

end Sys2Proof.Machine

end


/-! ## Repeating a set command (rule R65) -/

section

namespace Sys2Proof.Machine

/-! ### Idempotent maps of the units -/

/-- Applying the map again changes nothing. -/
def Idempotent {α : Type} (f : α → α) : Prop := ∀ x, f (f x) = f x

theorem onOsc_idempotent {F : Osc → Osc} (h : Idempotent F) : Idempotent (onOsc F) :=
  fun (o, a, m, f) => by simp only [onOsc, h o]

theorem onAenv_idempotent {F : Aenv → Aenv} (h : Idempotent F) : Idempotent (onAenv F) :=
  fun (o, a, m, f) => by simp only [onAenv, h a]

theorem onMenv_idempotent {F : Menv → Menv} (h : Idempotent F) : Idempotent (onMenv F) :=
  fun (o, a, m, f) => by simp only [onMenv, h m]

theorem onFilt_idempotent {F : Filt → Filt} (h : Idempotent F) : Idempotent (onFilt F) :=
  fun (o, a, m, f) => by simp only [onFilt, h f]

theorem guarded_idempotent {w : Word} {f : FourUnits → FourUnits} (h : Idempotent f) :
    Idempotent (guarded w f) := by
  unfold guarded
  split
  · exact h
  · exact fun _ => rfl

theorem switched_idempotent {w : Word} {F : Bool → Osc → Osc} (h : ∀ b, Idempotent (F b)) :
    Idempotent (switched w F) := by
  unfold switched
  split
  · exact onOsc_idempotent (h _)
  · exact fun _ => rfl

/-- A command whose map is idempotent leaves the same units twice as once. -/
theorem ActsAs.twice {i : Instr} {f : FourUnits → FourUnits} (hi : ActsAs i f) (h : Idempotent f)
    (s : State) : ∃ t u, exec i s = .next t ∧ exec i t = .next u ∧ Machine.sameUnits t u := by
  obtain ⟨t, ht, hft⟩ := hi s
  obtain ⟨u, hu, hfu⟩ := hi t
  refine ⟨t, u, ht, hu, ?_⟩
  have hunits : unitsOf t = unitsOf u := by rw [hfu, hft, h (unitsOf s)]
  simpa [unitsOf, Machine.sameUnits] using hunits

/-! ### The units' operations -/

section Operations

variable (v : F64)

/-- Recomputing a coefficient from the same parameter gives the same value. -/
theorem recomputed_recomputed (rate : Option F64) (old : F64) (coef : F64 → F64) :
    recomputed rate (recomputed rate old coef) coef = recomputed rate old coef := by
  cases rate <;> rfl

theorem aenvSetAttack_idempotent : Idempotent fun a => (aenvSetAttack binary64 v a).unit := fun a => by
  simp only [aenvSetAttack_unit, recomputed_recomputed]

theorem aenvSetDecay_idempotent : Idempotent fun a => (aenvSetDecay params v a).unit := fun a => by
  simp only [aenvSetDecay_unit, recomputed_recomputed]

theorem aenvSetRelease_idempotent : Idempotent fun a => (aenvSetRelease params v a).unit := fun a => by
  simp only [aenvSetRelease_unit, recomputed_recomputed]

theorem menvSetDecay_idempotent : Idempotent fun m => (menvSetDecay params v m).unit := fun m => by
  simp only [menvSetDecay_unit, recomputed_recomputed]

/-- A filter setter stores a parameter, and `configureFilt` reads only parameters. -/
theorem reconfigureFilt_idempotent {store : Filt → Filt} (hstore : Idempotent store)
    (hrate : ∀ f, (store f).sampleRate = f.sampleRate)
    (hconfigure : ∀ f sr, (configureFilt params sr (store (configureFilt params sr (store f)).unit)).unit =
      (configureFilt params sr (store f)).unit) :
    Idempotent fun f => (reconfigureFilt params (store f)).unit := by
  intro f
  cases hsr : (store f).sampleRate with
  | none => simp only [reconfigureFilt_unset hsr, hstore f]
  | some sr =>
    have hagain : (store (configureFilt params sr (store f)).unit).sampleRate = some sr :=
      (hrate _).trans hsr
    simp only [reconfigureFilt_set hsr, reconfigureFilt_set hagain, hconfigure]

theorem filtSetCutoff_idempotent : Idempotent fun f => (filtSetCutoff params v f).unit :=
  reconfigureFilt_idempotent (store := fun f => { f with cutoff := v }) (fun _ => rfl) (fun _ => rfl)
    fun _ _ => rfl

theorem filtSetResonance_idempotent : Idempotent fun f => (filtSetResonance params v f).unit :=
  reconfigureFilt_idempotent
    (store := fun f => { f with resonance := settle params.num (params.num.max params.num.zero v) })
    (fun _ => rfl) (fun _ => rfl) fun _ _ => rfl

end Operations

/-- Settles O44: each setter writes one unit, and its operation on that unit is idempotent; what an
operation stores depends on its operand and on parameters it does not write. -/
theorem repeatingASetCommandChangesNothing : Obligations.RepeatingASetCommandChangesNothing := by
  intro i s hi
  cases i with
  | oscSr hz => exact (actsAs_oscSr hz).twice (guarded_idempotent (onOsc_idempotent fun _ => rfl)) s
  | oscFreq hz =>
    exact (actsAs_osc (oscSetFrequency params) fun _ => rfl).twice
      (guarded_idempotent (onOsc_idempotent fun _ => rfl)) s
  | oscWave w =>
    exact (actsAs_switch (oscSetWave binary64) fun _ => rfl).twice
      (switched_idempotent fun _ _ => rfl) s
  | oscBlend b =>
    exact (actsAs_osc (oscSetBlend binary64) fun _ => rfl).twice
      (guarded_idempotent (onOsc_idempotent fun _ => rfl)) s
  | oscSubblend sb =>
    exact (actsAs_osc (oscSetSubBlend binary64) fun _ => rfl).twice
      (guarded_idempotent (onOsc_idempotent fun _ => rfl)) s
  | oscJc303 m =>
    exact (actsAs_switch (fun on o => { o with jc303 := on }) fun _ => rfl).twice
      (switched_idempotent fun _ _ => rfl) s
  | aenvSr hz =>
    exact (actsAs_aenvSr hz).twice (guarded_idempotent (onAenv_idempotent fun _ => rfl)) s
  | aenvAtk ms =>
    exact (actsAs_aenv (aenvSetAttack binary64) fun _ => rfl).twice
      (guarded_idempotent (onAenv_idempotent (aenvSetAttack_idempotent _))) s
  | aenvDec ms =>
    exact (actsAs_aenv (aenvSetDecay params) fun _ => rfl).twice
      (guarded_idempotent (onAenv_idempotent (aenvSetDecay_idempotent _))) s
  | aenvRel ms =>
    exact (actsAs_aenv (aenvSetRelease params) fun _ => rfl).twice
      (guarded_idempotent (onAenv_idempotent (aenvSetRelease_idempotent _))) s
  | menvSr hz =>
    exact (actsAs_menvSr hz).twice (guarded_idempotent (onMenv_idempotent fun _ => rfl)) s
  | menvDec ms =>
    exact (actsAs_menv (menvSetDecay params) fun _ => rfl).twice
      (guarded_idempotent (onMenv_idempotent (menvSetDecay_idempotent _))) s
  | filtSr hz =>
    exact (actsAs_filtSr hz).twice (guarded_idempotent (onFilt_idempotent fun _ => rfl)) s
  | filtCut hz =>
    exact (actsAs_filt (filtSetCutoff params) fun _ => rfl).twice
      (guarded_idempotent (onFilt_idempotent (filtSetCutoff_idempotent _))) s
  | filtRes r =>
    exact (actsAs_filt (filtSetResonance params) fun _ => rfl).twice
      (guarded_idempotent (onFilt_idempotent (filtSetResonance_idempotent _))) s
  | filtEnvmod depth =>
    exact (actsAs_filtStore filtSetEnvMod fun _ => rfl).twice
      (guarded_idempotent (onFilt_idempotent fun _ => rfl)) s
  | filtFmamt depth =>
    exact (actsAs_filtStore filtSetFmAmount fun _ => rfl).twice
      (guarded_idempotent (onFilt_idempotent fun _ => rfl)) s
  | _ => exact hi.elim

end Sys2Proof.Machine

end


/-! ## Encoding and framing (rules R80 to R88) -/

section

namespace Sys2Proof.Machine

/-! ### The opcode map -/

/-- Rule R87: a header of no row gives no command, whatever the operand words are.  The map's match is a
chain of tests of the header, in the order of its rows; each fails. -/
theorem instrOf_eq_none {h : Word} (hrow : ∀ i : Instr, headerOf i ≠ h) (ops : List Word) :
    instrOf h ops = none := by
  have no (i : Instr) : ¬ h.toNat = (headerOf i).toNat := fun heq =>
    hrow i (BitVec.eq_of_toNat_eq heq.symm)
  unfold instrOf instrOf.match_1
  exact .trans (dif_neg (no .nop)) <| .trans (dif_neg (no .reset)) <|
    .trans (dif_neg (no (.tick 0))) <| .trans (dif_neg (no (.peek 0))) <|
    .trans (dif_neg (no (.oscSr 0))) <| .trans (dif_neg (no (.oscFreq 0))) <|
    .trans (dif_neg (no (.oscGlide 0 0))) <| .trans (dif_neg (no (.oscWave 0))) <|
    .trans (dif_neg (no (.oscBlend 0))) <| .trans (dif_neg (no (.oscSubblend 0))) <|
    .trans (dif_neg (no (.oscJc303 0))) <| .trans (dif_neg (no .oscPhrst)) <|
    .trans (dif_neg (no .oscProc)) <| .trans (dif_neg (no (.aenvSr 0))) <|
    .trans (dif_neg (no (.aenvAtk 0))) <| .trans (dif_neg (no (.aenvDec 0))) <|
    .trans (dif_neg (no (.aenvRel 0))) <| .trans (dif_neg (no .aenvOn)) <|
    .trans (dif_neg (no .aenvOff)) <| .trans (dif_neg (no .aenvProc)) <|
    .trans (dif_neg (no .aenvActive)) <| .trans (dif_neg (no (.menvSr 0))) <|
    .trans (dif_neg (no (.menvDec 0))) <| .trans (dif_neg (no .menvTrig)) <|
    .trans (dif_neg (no .menvProc)) <| .trans (dif_neg (no (.filtSr 0))) <|
    .trans (dif_neg (no (.filtCut 0))) <| .trans (dif_neg (no (.filtRes 0))) <|
    .trans (dif_neg (no (.filtEnvmod 0))) <| .trans (dif_neg (no (.filtFmamt 0))) <|
    dif_neg (no (.filtProc 0 0 0 0))

/-- A row's header gives that row's command and needs its number of operand words (rule R85). -/
theorem encode_of_instrOf_headerOf {i j : Instr} {ops : List Word}
    (hj : instrOf (headerOf i) ops = some j) : encode j = headerOf i :: ops := by
  obtain _ | ⟨a, _ | ⟨b, _ | ⟨c, _ | ⟨d, _ | ⟨e, ops⟩⟩⟩⟩⟩ := ops <;> cases i <;> cases hj <;> rfl

/-- Rule R85: the opcode map is the inverse of the encoder. -/
theorem instrOf_eq_some_iff {h : Word} {ops : List Word} {i : Instr} :
    instrOf h ops = some i ↔ encode i = h :: ops := by
  constructor
  · intro hi
    by_cases hrow : ∀ j : Instr, headerOf j ≠ h
    · rw [instrOf_eq_none hrow] at hi
      contradiction
    · push Not at hrow
      obtain ⟨j, rfl⟩ := hrow
      exact encode_of_instrOf_headerOf hi
  · rintro ⟨⟩
    cases i <;> rfl

/-! ### Decoding -/

open Laws in
/-- Rules R81 and R85: a command's header has no reserved bit set and announces its operand words. -/
theorem headerFields : ∀ i : Instr, HeaderFields.Statement i
  | .nop => HeaderFields.nop
  | .reset => HeaderFields.reset
  | .tick _ => HeaderFields.tick _
  | .peek _ => HeaderFields.peek _
  | .oscSr _ => HeaderFields.oscSr _
  | .oscFreq _ => HeaderFields.oscFreq _
  | .oscGlide _ _ => HeaderFields.oscGlide _ _
  | .oscWave _ => HeaderFields.oscWave _
  | .oscBlend _ => HeaderFields.oscBlend _
  | .oscSubblend _ => HeaderFields.oscSubblend _
  | .oscJc303 _ => HeaderFields.oscJc303 _
  | .oscPhrst => HeaderFields.oscPhrst
  | .oscProc => HeaderFields.oscProc
  | .aenvSr _ => HeaderFields.aenvSr _
  | .aenvAtk _ => HeaderFields.aenvAtk _
  | .aenvDec _ => HeaderFields.aenvDec _
  | .aenvRel _ => HeaderFields.aenvRel _
  | .aenvOn => HeaderFields.aenvOn
  | .aenvOff => HeaderFields.aenvOff
  | .aenvProc => HeaderFields.aenvProc
  | .aenvActive => HeaderFields.aenvActive
  | .menvSr _ => HeaderFields.menvSr _
  | .menvDec _ => HeaderFields.menvDec _
  | .menvTrig => HeaderFields.menvTrig
  | .menvProc => HeaderFields.menvProc
  | .filtSr _ => HeaderFields.filtSr _
  | .filtCut _ => HeaderFields.filtCut _
  | .filtRes _ => HeaderFields.filtRes _
  | .filtEnvmod _ => HeaderFields.filtEnvmod _
  | .filtFmamt _ => HeaderFields.filtFmamt _
  | .filtProc _ _ _ _ => HeaderFields.filtProc _ _ _ _

theorem rsvField_headerOf (i : Instr) : rsvField (headerOf i) = 0 := (headerFields i).1

theorem nwField_headerOf (i : Instr) : nwField (headerOf i) = (operandsOf i).length := (headerFields i).2

/-- Without a reserved bit the opcode map decides (checks 1 and 2 of rule R263). -/
theorem decodeCommand_unreserved {h : Word} (hrsv : rsvField h = 0) (ops : List Word) :
    decodeCommand h ops = (instrOf h ops).elim (.error .opcode) .ok := by
  unfold decodeCommand
  cases instrOf h ops <;> simp [hrsv]

/-- A reserved bit rejects the header before the opcode is looked at. -/
theorem decodeCommand_reserved {h : Word} (hrsv : rsvField h ≠ 0) (ops : List Word) :
    decodeCommand h ops = .error .reserved := if_pos hrsv

/-- The words of a command, and no others, decode to it. -/
theorem decodeCommand_eq_ok_iff {h : Word} {ops : List Word} {i : Instr} :
    decodeCommand h ops = .ok i ↔ encode i = h :: ops := by
  rw [← instrOf_eq_some_iff]
  by_cases hrsv : rsvField h = 0
  · rw [decodeCommand_unreserved hrsv]
    cases instrOf h ops <;> simp
  · rw [decodeCommand_reserved hrsv]
    refine ⟨fun hd => by contradiction, fun hi => ?_⟩
    obtain ⟨rfl, -⟩ := List.cons.inj (instrOf_eq_some_iff.mp hi)
    exact absurd (rsvField_headerOf i) hrsv

/-- A header of no row is rejected, for a reserved bit first (rule R87). -/
theorem decodeCommand_illegal {h : Word} (hrow : ∀ i : Instr, headerOf i ≠ h) (ops : List Word) :
    decodeCommand h ops = .error (if rsvField h ≠ 0 then .reserved else .opcode) := by
  by_cases hrsv : rsvField h = 0
  · rw [decodeCommand_unreserved hrsv, instrOf_eq_none hrow, if_neg (not_not.mpr hrsv)]
    rfl
  · rw [decodeCommand_reserved hrsv, if_pos hrsv]

/-- A whole command at the front of a stream is taken off it. -/
theorem decodeWords_of_decodeCommand {h : Word} {ops rest : List Word} {i : Instr}
    (hlen : ops.length = nwField h) (hdec : decodeCommand h ops = .ok i) :
    decodeWords (h :: (ops ++ rest)) = .ok (i, rest) := by
  simp [decodeWords, ← hlen, hdec]

/-- Settles O1: the header announces the operand words, and the opcode map is the encoder's inverse. -/
theorem encodedCommandDecodesToItself : Obligations.EncodedCommandDecodesToItself := fun i _ =>
  decodeWords_of_decodeCommand (nwField_headerOf i).symm (decodeCommand_eq_ok_iff.mpr rfl)

/-- Settles O2: the opcode map is the encoder's inverse. -/
theorem decodedCommandIsItsEncoding : Obligations.DecodedCommandIsItsEncoding := fun _ _ _ hdec =>
  decodeCommand_eq_ok_iff.mp hdec

/-- Settles O4: the words of each line are laid out as bytes and decoded. -/
theorem specWordsDecode : Obligations.SpecWordsDecode := by
  unfold Obligations.SpecWordsDecode
  decide

/-! ### Taking a command off the port -/

/-- One step on a whole command whose header is rejected. -/
theorem step_of_rejected {s : State} {h : Word} {ops rest : List Word} {r : Reject}
    (hreset : s.resetIn = false) (hframing : s.framing = .waiting)
    (hport : s.cmdPort = h :: (ops ++ rest)) (hlen : ops.length = nwField h)
    (hdec : decodeCommand h ops = .error r) :
    step s = .next (rejectHeader r { s with cmdPort := rest }) := by
  have haccept : acceptCommand s = (some (h, ops), { s with cmdPort := rest }) := by
    rw [acceptCommand_whole hframing hport hlen, hframing]
  simp [step, stepBy, hreset, haccept, hdec]

/-- A command takes no word off the port, and leaves the block waiting for a header. -/
theorem exec_waits {i : Instr} {s t : State} (hframing : s.framing = .waiting)
    (h : exec i s = .next t) : t.cmdPort = s.cmdPort ∧ t.framing = .waiting := by
  by_cases hreset : i = .reset
  · subst hreset; cases h; exact ⟨rfl, rfl⟩
  · have hw := exec_writesOnly i s hreset t h
    exact ⟨hw.cmdPort, hw.framing.trans hframing⟩

theorem exec_next (i : Instr) (s : State) : ∃ t, exec i s = .next t := by
  obtain ⟨t, -, ht, -⟩ := exec_emits i s
  exact ⟨t, ht⟩

/-- One step with words missing: they are kept (rule R82). -/
theorem step_of_short {s : State} {h : Word} {ops : List Word} (hreset : s.resetIn = false)
    (hframing : s.framing = .waiting) (hport : s.cmdPort = h :: ops) (hlen : ops.length < nwField h) :
    step s = .next { s with framing := .collecting h ops, cmdPort := [] } := by
  have haccept : acceptCommand s = (none, { s with framing := .collecting h ops, cmdPort := [] }) := by
    simp [acceptCommand, hframing, hport, collectOperands_short (ops := []) hlen]
  simp [step, stepBy, hreset, haccept]

/-- Words collected earlier are taken as if they had been offered with the later ones (rule R82). -/
theorem acceptCommand_collecting {s : State} {h : Word} {early : List Word} (late : List Word)
    (hframing : s.framing = .collecting h early) (hlen : early.length < nwField h) :
    acceptCommand { s with cmdPort := late } =
      acceptCommand { s with framing := .waiting, cmdPort := h :: (early ++ late) } := by
  simp only [acceptCommand, hframing]
  by_cases hlate : late.length < nwField h - early.length
  · have hall : (early ++ late).length < nwField h - ([] : List Word).length := by
      simp only [List.length_append, List.length_nil]; omega
    rw [collectOperands_short hlate, collectOperands_short hall]
    rfl
  · have hall : nwField h - ([] : List Word).length ≤ (early ++ late).length := by
      simp only [List.length_append, List.length_nil]; omega
    rw [collectOperands_whole (not_lt.mp hlate), collectOperands_whole hall]
    simp [List.take_append, List.drop_append, List.take_of_length_le hlen.le,
      List.drop_eq_nil_of_le hlen.le]

/-- What a step does depends on the reset input and on what is taken off the port. -/
theorem step_congr {s t : State} (hreset : s.resetIn = t.resetIn)
    (haccept : acceptCommand s = acceptCommand t) : step s = step t := by
  simp only [step, stepBy, hreset, haccept, applyResetInput]

/-- Settles O6: the three ways of `collectOperands`. -/
theorem framingTakesExactlyOneCommand : Obligations.FramingTakesExactlyOneCommand := by
  refine ⟨fun s h ops rest hreset hframing hport hlen => ?_,
    fun s h ops hreset hframing hport hlen => step_of_short hreset hframing hport hlen,
    fun s h early late hreset hframing hlen =>
      step_congr rfl (acceptCommand_collecting late hframing hlen)⟩
  cases hdec : decodeCommand h ops with
  | ok i =>
    have hstep := step_of_decodeCommand hreset hframing hport hlen hdec
    obtain ⟨t, ht⟩ := exec_next i { s with cmdPort := rest }
    exact ⟨hstep, t, hstep.trans ht, exec_waits (s := { s with cmdPort := rest }) hframing ht⟩
  | error r =>
    have hstep := step_of_rejected hreset hframing hport hlen hdec
    refine ⟨hstep, _, hstep, ?_⟩
    rw [rejectHeader_frame]
    exact ⟨rfl, hframing⟩

/-- Settles O7: the decoder rejects the header, for a reserved bit first. -/
theorem illegalHeaderIsConsumedAndRecorded : Obligations.IllegalHeaderIsConsumedAndRecorded := by
  intro s h ops rest hreset hframing hport hlen hrow
  rw [step_of_rejected hreset hframing hport hlen (decodeCommand_illegal hrow ops)]
  split <;> rfl

end Sys2Proof.Machine

end


/-! ## The order of the checks (rules R22, R84, R89, R90 and R263) -/

section

namespace Sys2Proof.Machine

/-! ### What a command can answer -/

/-- A command that passed its checks: it records nothing but perhaps ERR_OVERFLOW. -/
def Completes (i : Instr) (s : State) (r : Result) : Prop :=
  ∃ t, r = .next t ∧ (i = .reset ∨ t.sticky = s.sticky ∨ t.sticky = recordError .overflow s.sticky)

/-- What checks 3 to 6 of rule R263 let a command with `n` response words answer, for its `F32` operands
`ws`, whether its `U32` operand is in its closed set, and the rates it needs: each check drops the command
where the checks before it passed. -/
def CheckedInOrder (i : Instr) (ws : List Word) (inSet : Bool) (rates : List (Option F64)) (s : State)
    (r : Result) : Prop :=
  if ws.any (fun w => !finiteOperand w) then r = .next (dropCommand .nonfinite i.respCount s)
  else if inSet = false then r = .next (dropCommand .operand i.respCount s)
  else if none ∈ rates then r = .next (dropCommand .noSr i.respCount s)
  else Completes i s r

section Operations

variable {i : Instr} {s t : State} {r : Result} {n : Nat}

theorem completes_of_sticky (h : t.sticky = s.sticky := by rfl) : Completes i s (.next t) :=
  ⟨t, rfl, .inr (.inl h)⟩

theorem completes_complete (N : Arith) (b : Bool) (out : List F64) (h : t.sticky = s.sticky := by rfl) :
    Completes i s (.next (complete N b out t)) := by
  refine ⟨_, rfl, .inr ?_⟩
  rw [complete_sticky, h]
  split
  · exact .inr rfl
  · exact .inl rfl

theorem completes_emitRegister (N : Arith) (v : RegValue) :
    Completes i s (.next (emitRegister N v s)) := by
  cases v with
  | u32 w => exact completes_of_sticky
  | real x => exact completes_complete N false [x]

/-- A command without a check left completes. -/
theorem checked_of_completes (h : Completes i s r) : CheckedInOrder i [] true [] s r := by
  simpa [CheckedInOrder] using h

theorem checked_withF32 {N : Arith} {w : Word} {ws : List Word} {inSet : Bool}
    {rates : List (Option F64)} {run : F64 → Result}
    (h : ∀ v, CheckedInOrder i ws inSet rates s (run v)) (hn : n = i.respCount := by rfl) :
    CheckedInOrder i (w :: ws) inSet rates s (withF32 N w n s run) := by
  subst hn
  cases hw : f32Finite w
  · simp [CheckedInOrder, ← f32Finite_eq, hw]
  · simpa [CheckedInOrder, withF32_finite hw, ← f32Finite_eq, hw] using h (N.ofF32 w)

theorem checked_withU32 {α : Type} {m : Option α} {run : α → Result}
    (h : ∀ v, Completes i s (run v)) (hn : n = i.respCount := by rfl) :
    CheckedInOrder i [] m.isSome [] s (withU32 m n s run) := by
  subst hn
  cases m with
  | none => simp [CheckedInOrder]
  | some v => simpa [CheckedInOrder] using h v

theorem checked_withRate {rate : Option F64} {rates : List (Option F64)} {run : F64 → Result}
    (h : ∀ sr, CheckedInOrder i [] true rates s (run sr)) (hn : n = i.respCount := by rfl) :
    CheckedInOrder i [] true (rate :: rates) s (withRate rate n s run) := by
  subst hn
  cases rate with
  | none => simp [CheckedInOrder]
  | some sr => simpa [CheckedInOrder] using h sr

end Operations

/-! ### Every command -/

/-- The `U32` operand, where the command has one, is in its closed set (check 4, rule R89). -/
def inClosedSet : Instr → Bool
  | .peek index => assignedIndex index
  | .oscWave w | .oscJc303 w => w.toNat ≤ 1
  | _ => true

theorem zeroOrOne_isSome (w : Word) : (zeroOrOne w).isSome = decide (w.toNat ≤ 1) := by
  rcases zeroOrOne_cases w with ⟨rfl, h⟩ | ⟨rfl, h⟩ | ⟨hw, h⟩ <;> rw [h]
  · rfl
  · rfl
  · simpa using hw

/-- A command is well formed where its operands pass checks 3 and 4. -/
theorem wellFormed_eq (i : Instr) :
    i.wellFormed = ((f32Operands i).all finiteOperand && inClosedSet i) := by
  cases i <;> simp [Instr.wellFormed, f32Operands, inClosedSet, Bool.and_assoc]

/-- Each command's meaning takes its operands and rates in the order of rule R263. -/
theorem exec_checked (i : Instr) (s : State) :
    CheckedInOrder i (f32Operands i) (inClosedSet i) (neededRates i s) s (exec i s) := by
  rw [exec_eq_execWith]
  cases i with
  | nop | oscPhrst | aenvOn | aenvOff | aenvActive | menvTrig =>
    exact checked_of_completes completes_of_sticky
  | reset => exact checked_of_completes ⟨_, rfl, .inl rfl⟩
  | tick fm =>
    simp only [execWith, execTickWith]
    exact checked_withF32 fun _ => checked_withRate fun _ => checked_withRate fun _ =>
      checked_withRate fun _ => checked_withRate fun _ => checked_of_completes (completes_complete ..)
  | peek index =>
    rw [inClosedSet, ← readRegister_isSome s]
    exact checked_withU32 fun v => completes_emitRegister _ v
  | oscWave w | oscJc303 w =>
    rw [inClosedSet, ← zeroOrOne_isSome]
    exact checked_withU32 fun _ => completes_of_sticky
  | oscSr w | oscFreq w | oscBlend w | oscSubblend w =>
    simp only [execWith, execOscSrWith, execOscFreqWith, execOscBlendWith, execOscSubblendWith]
    exact checked_withF32 fun _ => checked_of_completes (completes_complete ..)
  | aenvSr w | aenvAtk w | aenvDec w | aenvRel w =>
    simp only [execWith, execAenvSrWith, execAenvAtkWith, execAenvDecWith, execAenvRelWith]
    exact checked_withF32 fun _ => checked_of_completes (completes_complete ..)
  | menvSr w | menvDec w =>
    simp only [execWith, execMenvSrWith, execMenvDecWith]
    exact checked_withF32 fun _ => checked_of_completes (completes_complete ..)
  | filtSr w | filtCut w | filtRes w =>
    simp only [execWith, execFiltSrWith, execFiltCutWith, execFiltResWith]
    exact checked_withF32 fun _ => checked_of_completes (completes_complete ..)
  | filtEnvmod w | filtFmamt w =>
    simp only [execWith, execFiltEnvmodWith, execFiltFmamtWith]
    exact checked_withF32 fun _ => checked_of_completes completes_of_sticky
  | oscGlide hz ms =>
    simp only [execWith, execOscGlideWith]
    exact checked_withF32 fun _ => checked_withF32 fun _ => checked_withRate fun _ =>
      checked_of_completes (completes_complete ..)
  | oscProc | aenvProc | menvProc =>
    exact checked_withRate fun _ => checked_of_completes (completes_complete ..)
  | filtProc input env acc fm =>
    simp only [execWith, execFiltProcWith]
    exact checked_withF32 fun _ => checked_withF32 fun _ => checked_withF32 fun _ =>
      checked_withF32 fun _ => checked_withRate fun _ => checked_of_completes (completes_complete ..)

/-- Settles O9: with every `F32` operand finite, a command is well formed where its `U32` operand is in
its set. -/
theorem checksRunInOrder : Obligations.ChecksRunInOrder := by
  intro i s
  have hchecked := exec_checked i s
  unfold CheckedInOrder at hchecked
  split
  · rwa [if_pos ‹_›] at hchecked
  · rename_i hfinite
    have hset : i.wellFormed = inClosedSet i := by
      have hall : (f32Operands i).all finiteOperand = true := by simpa using hfinite
      rw [wellFormed_eq, hall, Bool.true_and]
    rwa [if_neg hfinite, ← hset] at hchecked

/-! ### Responses -/

/-- An ill-formed command, or one without a rate it needs, is dropped. -/
theorem exec_dropped {i : Instr} {s : State} (h : i.wellFormed = false ∨ none ∈ neededRates i s) :
    ∃ e, exec i s = .next (dropCommand e i.respCount s) := by
  have hchecks := checksRunInOrder i s
  split at hchecks
  · exact ⟨_, hchecks⟩
  · split at hchecks
    · exact ⟨_, hchecks⟩
    · rename_i hwf
      rw [if_pos (h.resolve_left hwf)] at hchecks
      exact ⟨_, hchecks⟩

/-- Settles O10: a dropped command's words are the quiet NaNs of `dropCommand`. -/
theorem responseCountNeverDependsOnAnError : Obligations.ResponseCountNeverDependsOnAnError := by
  refine ⟨fun i s => ?_, fun r s => by rw [rejectHeader_frame]⟩
  by_cases hbad : i.wellFormed = false ∨ none ∈ neededRates i s
  · obtain ⟨e, hexec⟩ := exec_dropped hbad
    exact ⟨_, _, hexec, dropCommand_resp .., List.length_replicate, fun _ => rfl⟩
  · obtain ⟨t, ws, hexec, hresp, hlen⟩ := exec_emits i s
    exact ⟨t, ws, hexec, hresp, hlen, fun h => absurd h hbad⟩

end Sys2Proof.Machine

end


/-! ## A note dispatch in any order (rules R92, R292 and R299) -/

section

namespace Sys2Proof.Machine

/-! ### Runs whose commands commute -/

/-- The state a command leaves. -/
def stateAfter (s : State) (i : Instr) : State :=
  match exec i s with
  | .next t => t
  | .fault _ | .refused _ => s

theorem stateAfter_eq {i : Instr} {s t : State} (h : exec i s = .next t) : stateAfter s i = t := by
  simp [stateAfter, h]

theorem exec_eq_stateAfter (i : Instr) (s : State) : exec i s = .next (stateAfter s i) := by
  obtain ⟨t, ht⟩ := exec_next i s
  rw [ht, stateAfter_eq ht]

theorem runCommands_eq_foldl (cmds : List Instr) (s : State) :
    runCommands cmds s = .next (cmds.foldl stateAfter s) := by
  induction cmds generalizing s with
  | nil => rfl
  | cons i cmds ih => simp only [runCommands, exec_eq_stateAfter i s, ih, List.foldl_cons]

/-- The two commands lead to the same state in either order. -/
def Commuting (i j : Instr) : Prop :=
  ∀ s, stateAfter (stateAfter s i) j = stateAfter (stateAfter s j) i

theorem Commuting.symm {i j : Instr} (h : Commuting i j) : Commuting j i := fun s => (h s).symm

theorem Commuting.refl (i : Instr) : Commuting i i := fun _ => rfl

/-- Three commands that commute give the same outcome in every order. -/
theorem runCommands_perm_of_commuting {i j k : Instr} (hij : Commuting i j) (hik : Commuting i k)
    (hjk : Commuting j k) {cmds : List Instr} (h : cmds.Perm [i, j, k]) (s : State) :
    runCommands cmds s = runCommands [i, j, k] s := by
  have hall : ∀ x ∈ [i, j, k], ∀ y ∈ [i, j, k], Commuting x y := by
    simp [Commuting.refl, hij, hij.symm, hik, hik.symm, hjk, hjk.symm]
  rw [runCommands_eq_foldl, runCommands_eq_foldl,
    h.symm.foldl_eq' fun x hx y hy => hall x hx y hy]

/-! ### Commands that neither read nor write an envelope -/

/-- Next states that differ in the envelopes only, which in the second are `a` and `m`. -/
def SameButEnvelopes (a : Aenv) (m : Menv) (r r' : Result) : Prop :=
  ∃ t, r = .next t ∧ r' = .next { t with aenv := a, menv := m }

section Operations

variable {a : Aenv} {m : Menv} {n : Nat} {s s' : State} {run run' : F64 → Result}

theorem sameButEnvelopes_dropCommand (e : ErrCode) (h : s' = { s with aenv := a, menv := m }) :
    SameButEnvelopes a m (.next (dropCommand e n s)) (.next (dropCommand e n s')) :=
  ⟨_, rfl, by rw [h]; rfl⟩

theorem sameButEnvelopes_withF32 {N : Arith} {w : Word} (h : s' = { s with aenv := a, menv := m })
    (hrun : ∀ v, SameButEnvelopes a m (run v) (run' v)) :
    SameButEnvelopes a m (withF32 N w n s run) (withF32 N w n s' run') := by
  cases hw : f32Finite w
  · rw [withF32_nonfinite hw, withF32_nonfinite hw]
    exact sameButEnvelopes_dropCommand _ h
  · rw [withF32_finite hw, withF32_finite hw]
    exact hrun _

theorem sameButEnvelopes_withRate {rate : Option F64} (h : s' = { s with aenv := a, menv := m })
    (hrun : ∀ sr, SameButEnvelopes a m (run sr) (run' sr)) :
    SameButEnvelopes a m (withRate rate n s run) (withRate rate n s' run') := by
  cases rate with
  | none => exact sameButEnvelopes_dropCommand _ h
  | some sr => exact hrun sr

theorem sameButEnvelopes_completeOsc (N : Arith) (u : Update Osc)
    (h : s' = { s with aenv := a, menv := m }) :
    SameButEnvelopes a m (completeOsc N u s) (completeOsc N u s') := by
  refine ⟨_, rfl, ?_⟩
  rw [h, completeOsc, complete_eq, complete_eq]

end Operations

/-- Whatever the envelopes hold, the command does the same and leaves them alone. -/
def IgnoresEnvelopes (i : Instr) : Prop :=
  ∀ (s : State) (a : Aenv) (m : Menv),
    SameButEnvelopes a m (exec i s) (exec i { s with aenv := a, menv := m })

theorem ignoresEnvelopes_oscFreq (hz : Word) : IgnoresEnvelopes (.oscFreq hz) := fun _ _ _ => by
  simp only [exec_eq_execWith, execWith, execOscFreqWith]
  exact sameButEnvelopes_withF32 rfl fun _ => sameButEnvelopes_completeOsc _ _ rfl

theorem ignoresEnvelopes_oscGlide (hz ms : Word) : IgnoresEnvelopes (.oscGlide hz ms) :=
  fun _ _ _ => by
    simp only [exec_eq_execWith, execWith, execOscGlideWith]
    exact sameButEnvelopes_withF32 rfl fun _ => sameButEnvelopes_withF32 rfl fun _ =>
      sameButEnvelopes_withRate rfl fun _ => sameButEnvelopes_completeOsc _ _ rfl

namespace IgnoresEnvelopes

variable {i : Instr}

theorem stateAfter_eq (h : IgnoresEnvelopes i) (s : State) (a : Aenv) (m : Menv) :
    stateAfter { s with aenv := a, menv := m } i = { stateAfter s i with aenv := a, menv := m } := by
  obtain ⟨t, ht, ht'⟩ := h s a m
  rw [Machine.stateAfter_eq ht, Machine.stateAfter_eq ht']

theorem aenv_eq (h : IgnoresEnvelopes i) (s : State) : (stateAfter s i).aenv = s.aenv :=
  (congrArg State.aenv (h.stateAfter_eq s s.aenv s.menv)).trans rfl

theorem menv_eq (h : IgnoresEnvelopes i) (s : State) : (stateAfter s i).menv = s.menv :=
  (congrArg State.menv (h.stateAfter_eq s s.aenv s.menv)).trans rfl

theorem commuting_aenvOn (h : IgnoresEnvelopes i) : Commuting i .aenvOn := fun s =>
  calc stateAfter (stateAfter s i) .aenvOn
    _ = { stateAfter s i with aenv := aenvNoteOn binary64 (stateAfter s i).aenv } := rfl
    _ = { stateAfter s i with aenv := aenvNoteOn binary64 s.aenv, menv := s.menv } := by
        rw [h.aenv_eq, ← h.menv_eq s]
    _ = stateAfter (stateAfter s .aenvOn) i := (h.stateAfter_eq s _ s.menv).symm

theorem commuting_menvTrig (h : IgnoresEnvelopes i) : Commuting i .menvTrig := fun s =>
  calc stateAfter (stateAfter s i) .menvTrig
    _ = { stateAfter s i with menv := menvTrigger binary64 (stateAfter s i).menv } := rfl
    _ = { stateAfter s i with aenv := s.aenv, menv := menvTrigger binary64 s.menv } := by
        rw [h.menv_eq, ← h.aenv_eq s]
    _ = stateAfter (stateAfter s .menvTrig) i := (h.stateAfter_eq s s.aenv _).symm

end IgnoresEnvelopes

theorem commuting_aenvOn_menvTrig : Commuting .aenvOn .menvTrig := fun _ => rfl

/-- Rule R299: a command of the oscillator that ignores the envelopes, with AENV_ON and MENV_TRIG. -/
theorem runCommands_note_perm {i : Instr} (h : IgnoresEnvelopes i) {cmds : List Instr}
    (hperm : cmds.Perm [i, .aenvOn, .menvTrig]) (s : State) :
    runCommands cmds s = runCommands [i, .aenvOn, .menvTrig] s :=
  runCommands_perm_of_commuting h.commuting_aenvOn h.commuting_menvTrig commuting_aenvOn_menvTrig hperm s

/-- Settles O46: each pair of a dispatch commutes, STATUS and the response port included. -/
theorem noteDispatchOrderIsInvisible : Obligations.NoteDispatchOrderIsInvisible := fun hz ms s =>
  ⟨rfl, rfl, fun _ => ⟨fun h => runCommands_note_perm (ignoresEnvelopes_oscFreq hz) h s,
    fun h => runCommands_note_perm (ignoresEnvelopes_oscGlide hz ms) h s⟩⟩

end Sys2Proof.Machine

end


/-! ## The oscillator's plain writes and its glides (rules R116, R118, R119, R122 to R125 and R240) -/

section

namespace Sys2Proof.Machine

/-! ### Glides -/

/-- Every sample rate is set, so that no sample command is dropped with ERR_NO_SR. -/
structure Rated (s : State) : Prop where
  osc : s.osc.sampleRate.isSome = true
  aenv : s.aenv.sampleRate.isSome = true
  menv : s.menv.sampleRate.isSome = true
  filt : s.filt.sampleRate.isSome = true

/-- A sample command is OSC_PROC or TICK, so it is no writer of a sample rate. -/
theorem Rated.of_oscSample {c : Instr} {s t : State} (hs : Rated s) (hc : isOscSample c)
    (h : exec c s = .next t) : Rated t := by
  have hsteps := exec_steps c s t h
  have hnot : ∀ hdr ∈ [0x110#32, 0x120#32, 0x130#32, 0x140#32], NotWriter c [hdr] := by
    cases c with
    | oscProc | tick fm => simp [NotWriter, headerOf]
    | _ => contradiction
  exact ⟨by rw [hsteps.osc.columns.sampleRate (hnot _ (by simp))]; exact hs.osc,
    by rw [hsteps.aenv.columns.sampleRate (hnot _ (by simp))]; exact hs.aenv,
    by rw [hsteps.menv.columns.sampleRate (hnot _ (by simp))]; exact hs.menv,
    by rw [hsteps.filt.columns.sampleRate (hnot _ (by simp))]; exact hs.filt⟩

/-- OSC_PROC and TICK run the same body on the oscillator (rules R124 and R241). -/
theorem exec_oscSample {c : Instr} {s : State} (hc : isOscSample c) (hs : Rated s) :
    ∃ t sr, exec c s = .next t ∧ t.osc = (oscProcess params sr s.osc).unit := by
  obtain ⟨srO, hO⟩ := Option.isSome_iff_exists.mp hs.osc
  obtain ⟨srA, hA⟩ := Option.isSome_iff_exists.mp hs.aenv
  obtain ⟨srM, hM⟩ := Option.isSome_iff_exists.mp hs.menv
  obtain ⟨srF, hF⟩ := Option.isSome_iff_exists.mp hs.filt
  rw [exec_eq_execWith]
  cases c with
  | oscProc =>
    simp only [execWith, execOscProcWith, hO, withRate_some]
    exact ⟨_, srO, rfl, complete_osc ..⟩
  | tick fm =>
    have hfm : f32Finite fm = true := hc
    simp only [execWith, execTickWith, withF32_finite hfm, hO, hA, hM, hF, withRate_some]
    exact ⟨_, srO, rfl, complete_osc ..⟩
  | _ => contradiction

/-- The last step of a glide takes the target itself, not a product (rules R124 and R125). -/
theorem sampleFrequency_last {o : Osc} (h : o.glideSteps = 1)
    (hfin : o.targetFrequency.isFinite = true) : sampleFrequency o = o.targetFrequency := by
  simp [sampleFrequency, glidedFrequency, h, written_of_finite hfin]

theorem sampleFrequency_idle {o : Osc} (h : o.glideSteps = 0) : sampleFrequency o = o.frequency := by
  simp [sampleFrequency, h]

/-- What the samples keep on the way to `tgt`: with no steps left, the frequency is there. -/
structure GlidesTo (tgt : F64) (s : State) : Prop where
  rated : Rated s
  target : s.osc.targetFrequency = tgt
  arrived : s.osc.glideSteps = 0 → s.osc.frequency = tgt

/-- One sample: the count goes from 1 to 0 exactly where the frequency takes the target. -/
theorem GlidesTo.sample {tgt : F64} {c : Instr} {s : State} (htgt : tgt.isFinite = true)
    (hs : GlidesTo tgt s) (hc : isOscSample c) :
    ∃ t, exec c s = .next t ∧ GlidesTo tgt t ∧ t.osc.glideSteps = s.osc.glideSteps - 1 := by
  obtain ⟨t, sr, hexec, hosc⟩ := exec_oscSample hc hs.rated
  rw [oscProcess_unit] at hosc
  refine ⟨t, hexec, ⟨hs.rated.of_oscSample hc hexec, ?_, fun h => ?_⟩, ?_⟩
  · rw [hosc]; exact hs.target
  · have hfreq : t.osc.frequency = sampleFrequency s.osc := by rw [hosc]
    have hle : s.osc.glideSteps - 1 = 0 := by rw [hosc] at h; exact h
    rw [hfreq]
    rcases Nat.le_one_iff_eq_zero_or_eq_one.mp (Nat.sub_eq_zero_iff_le.mp hle) with hidle | hlast
    · rw [sampleFrequency_idle hidle, hs.arrived hidle]
    · rw [sampleFrequency_last hlast (by rwa [hs.target]), hs.target]
  · rw [hosc]

/-- A run of sample commands counts down by its length. -/
theorem GlidesTo.samples {tgt : F64} (htgt : tgt.isFinite = true) {cmds : List Instr}
    (hcmds : ∀ c ∈ cmds, isOscSample c) {s : State} (hs : GlidesTo tgt s) :
    ∃ t, runCommands cmds s = .next t ∧ GlidesTo tgt t ∧
      t.osc.glideSteps = s.osc.glideSteps - cmds.length := by
  induction cmds generalizing s with
  | nil => exact ⟨s, rfl, hs, rfl⟩
  | cons c cmds ih =>
    obtain ⟨hc, hrest⟩ := List.forall_mem_cons.mp hcmds
    obtain ⟨u, hexec, hu, hsteps⟩ := hs.sample htgt hc
    obtain ⟨t, hrun, ht, hcount⟩ := ih hrest hu
    refine ⟨t, by simp only [runCommands, hexec, hrun], ht, ?_⟩
    rw [hcount, hsteps, List.length_cons]
    omega

/-- Settles O28: while steps are left nothing is claimed of the frequency, so the invariant holds at
the start; at the count 0 it is the claim. -/
theorem glideEndsExactlyAtItsTarget : Obligations.GlideEndsExactlyAtItsTarget := by
  intro cmds s hcmds hosc haenv hmenv hfilt htgt hpos hle
  have hs : GlidesTo s.osc.targetFrequency s :=
    ⟨⟨hosc, haenv, hmenv, hfilt⟩, rfl, fun h => by omega⟩
  obtain ⟨t, hrun, ht, hsteps⟩ := hs.samples htgt hcmds
  exact ⟨t, hrun, hsteps, ht.target, fun hlen => ht.arrived (by omega)⟩

/-! ### Plain writes -/

/-- Settles O20: each meaning is its register writes. -/
theorem plainCommandsWriteExactly : Obligations.PlainCommandsWriteExactly := fun _ =>
  ⟨rfl, rfl, rfl, rfl, rfl⟩

theorem exec_oscSr {hz : Word} (hw : f32Finite hz = true) (s : State) :
    exec (.oscSr hz) s = .next
      { s with osc := { s.osc with sampleRate := some (F64.max (F64.ofF32 hz) params.srMin) } } := by
  change execOscSrWith params hz s = _
  rw [execOscSrWith, withF32_finite hw, params_num, binary64_ofF32, oscSetRate_ofF32 hw,
    completeOsc_quiet]

/-- Settles O22. -/
theorem oscSrStoresTheFlooredRate : Obligations.OscSrStoresTheFlooredRate := fun _ s hw =>
  ⟨exec_oscSr hw s, rateLegal_max hw, max_eq_second, max_eq_first⟩

/-! ### OSC_WAVE and OSC_JC303 -/

theorem zeroOrOne_eq_none {w : Word} (h : 1 < w.toNat) : zeroOrOne w = none := by
  rcases zeroOrOne_cases w with ⟨rfl, -⟩ | ⟨rfl, -⟩ | ⟨-, hnone⟩
  · exact absurd h (by decide)
  · exact absurd h (by decide)
  · exact hnone

/-- Dropping a command without responses records the error and does nothing else. -/
theorem dropCommand_silent (e : ErrCode) (s : State) :
    dropCommand e 0 s = { s with sticky := recordError e s.sticky } := by
  simp [dropCommand, emitWords, raiseError]

/-- Settles O25: the closed set is looked up; outside of it both commands are dropped. -/
theorem waveAndModeTakeZeroOrOne : Obligations.WaveAndModeTakeZeroOrOne := by
  intro w s
  refine ⟨?zero, ?one, fun hw => ?other⟩
  case zero => rintro rfl; exact ⟨rfl, rfl⟩
  case one => rintro rfl; exact ⟨rfl, rfl⟩
  case other =>
    have hnone := zeroOrOne_eq_none hw
    constructor
    · change execOscWaveWith params w s = _
      rw [execOscWaveWith, hnone, withU32_none, dropCommand_silent]
    · change execOscJc303 w s = _
      rw [execOscJc303, hnone, withU32_none, dropCommand_silent]

end Sys2Proof.Machine

end


/-! ## The release of the amplitude envelope (rules R157 and R159)

A product with a coefficient below 1 takes at least half a unit in the last place off a level that is
not among the smallest values of the format, so rounding cannot bring the level back: its pattern goes
down at every sample, until it is below the floor. -/

section

namespace Sys2Proof.Machine

open F64

/-! ### A product with a coefficient below 1 -/

/-- From the second binade up a pattern's value and the one before it differ by less than `2 ^ -f` of
the value. -/
theorem gridValue_pred_close {f m : ℕ} (h : 2 * 2 ^ f ≤ m) :
    2 ^ f * gridValue f m < 2 ^ f * gridValue f (m - 1) + gridValue f m := by
  obtain ⟨e, q, rfl, hn, hq⟩ := pattern_split f m
  have hpos := Nat.two_pow_pos f
  rw [Nat.pow_succ] at hq
  obtain ⟨e, rfl⟩ : ∃ d, e = d + 1 := Nat.exists_eq_succ_of_ne_zero (by rintro rfl; omega)
  have hge : 2 ^ f ≤ q := hn.resolve_left e.succ_ne_zero
  rw [gridValue_split hn (by rw [Nat.pow_succ]; omega)]
  rcases hge.lt_or_eq with hlt | rfl
  · rw [Nat.add_sub_assoc (by omega), gridValue_split (.inr (by omega)) (by rw [Nat.pow_succ]; omega)]
    calc 2 ^ f * (q * 2 ^ (e + 1))
        = (2 ^ f * (q - 1) + 2 ^ f) * 2 ^ (e + 1) := by
          rw [← Nat.mul_succ, Nat.succ_eq_add_one, Nat.sub_add_cancel (by omega)]; ring
      _ < (2 ^ f * (q - 1) + q) * 2 ^ (e + 1) := by gcongr
      _ = _ := by ring
  · have hpred : (e + 1) * 2 ^ f + 2 ^ f - 1 = e * 2 ^ f + (2 * 2 ^ f - 1) := by
      rw [Nat.succ_mul]; omega
    rw [hpred, gridValue_split (.inr (by omega)) (by rw [Nat.pow_succ]; omega)]
    calc 2 ^ f * (2 ^ f * 2 ^ (e + 1))
        = (2 ^ f * (2 * 2 ^ f - 1) + 2 ^ f) * 2 ^ e := by
          rw [← Nat.mul_succ, Nat.succ_eq_add_one, Nat.sub_add_cancel (by omega)]; ring
      _ < (2 ^ f * (2 * 2 ^ f - 1) + 2 * 2 ^ f) * 2 ^ e := by gcongr; omega
      _ = _ := by ring

/-- The greatest value below 1. -/
def belowOne : F64 := ⟨0x3FEFFFFFFFFFFFFF#64⟩

theorem belowOne_toRat : belowOne.toRat = 1 - 1 / 2 ^ 53 := by
  have hneg : belowOne.isNeg = false := by decide
  have hmant : belowOne.mant = 2 ^ 53 - 1 := by decide
  have hscale : belowOne.scale = 1022 := by decide
  rw [toRat_eq_mant, hneg, hmant, hscale]
  norm_num

theorem toRat_le_of_lt_one {c : F64} (h : c.toRat < 1) : c.toRat ≤ 1 - 1 / 2 ^ 53 := by
  have hsucc : F64.one.orderKey = belowOne.orderKey + 1 := by decide
  rw [← toRat_one, toRat_lt_iff, hsucc] at h
  rw [← belowOne_toRat, ← not_lt, toRat_lt_iff]
  omega

/-- Below a value from the second binade up there is one within `2 ^ -52` of it, relatively. -/
theorem exists_toRat_just_below {x : F64} (hx : x.isFinite = true) (h : 2 * 2 ^ 52 ≤ x.orderKey) :
    ∃ y : F64, y.isFinite = true ∧ y.toRat < x.toRat ∧
      x.toRat * (1 - 1 / 2 ^ 52) < y.toRat := by
  have hneg : x.isNeg = false := by
    cases hs : x.isNeg
    · rfl
    · rw [orderKey_eq, hs, signFactor_true] at h; omega
  rw [orderKey_eq, hneg, signFactor_false, one_mul] at h
  have hmag : 2 * 2 ^ 52 ≤ x.mag := by exact_mod_cast h
  have hpred : x.mag - 1 < 2 ^ 63 := (Nat.sub_le _ _).trans_lt x.mag_lt
  have hunit : (0 : ℚ) < 2 ^ (-1074 : ℤ) := by positivity
  have hyrat : (pack false (x.mag - 1)).toRat = gridValue 52 (x.mag - 1) * (2 : ℚ) ^ (-1074 : ℤ) := by
    rw [toRat_eq_units, pack_units false hpred, signFactor_false, one_mul, Int.cast_natCast]
  have hxrat : x.toRat = gridValue 52 x.mag * (2 : ℚ) ^ (-1074 : ℤ) := by
    rw [toRat_eq_units, units, hneg, signFactor_false, one_mul, Int.cast_natCast]
  refine ⟨pack false (x.mag - 1), ?_, ?_, ?_⟩
  · rw [isFinite_iff] at hx ⊢
    rw [pack_mag false hpred]
    omega
  · rw [hyrat, hxrat, mul_lt_mul_iff_left₀ hunit, Nat.cast_lt]
    exact gridValue_strictMono 52 (by omega)
  · rw [hyrat, hxrat, mul_right_comm, mul_lt_mul_iff_left₀ hunit]
    have hclose : ((2 ^ 52 * gridValue 52 x.mag : ℕ) : ℚ) <
        (2 ^ 52 * gridValue 52 (x.mag - 1) + gridValue 52 x.mag : ℕ) :=
      Nat.cast_lt.mpr (gridValue_pred_close hmag)
    push_cast at hclose
    linarith

/-- The value just below `x` is nearer to `x * c` than `x` is. -/
theorem mul_toRat_lt {x c : F64} (hx : inUnit x = true) (hc : inUnit c = true) (hc1 : c.toRat < 1)
    (h : 2 * 2 ^ 52 ≤ x.orderKey) : (F64.mul x c).toRat < x.toRat := by
  obtain ⟨hxf, hx0, -⟩ := (inUnit_iff x).mp hx
  obtain ⟨hcf, hc0, -⟩ := (inUnit_iff c).mp hc
  obtain ⟨y, hyf, hyx, hclose⟩ := exists_toRat_just_below hxf h
  refine (mul_inUnit hx hc).2.lt_of_ne fun heq => ?_
  have hle : x.toRat * c.toRat ≤ x.toRat * (1 - 1 / 2 ^ 53) :=
    mul_le_mul_of_nonneg_left (toRat_le_of_lt_one hc1) hx0
  have hmid : 2 * (x.toRat * c.toRat) < y.toRat + x.toRat := by linarith
  have hltx : x.toRat * c.toRat ≤ x.toRat := mul_le_of_le_one_right hx0 hc1.le
  have hlt : |(x.toRat : ℝ) * c.toRat| < 2 ^ 1024 - 2 ^ 970 := by
    rw [← Rat.cast_mul, ← Rat.cast_abs, abs_of_nonneg (mul_nonneg hx0 hc0)]
    exact (Rat.cast_le.mpr hltx).trans_lt ((le_abs_self _).trans_lt (abs_toRat_lt hxf))
  have hnear := ((rounded_mul hxf hcf).of_lt hlt).2 y hyf
  rw [heq] at hnear
  have hnear' : |x.toRat - x.toRat * c.toRat| ≤ |y.toRat - x.toRat * c.toRat| := by
    exact_mod_cast hnear
  rw [abs_of_nonneg (sub_nonneg.mpr hltx), le_abs] at hnear'
  rcases hnear' with h' | h' <;> linarith

/-- The floor of Decay and Release lies in the second binade or above. -/
theorem orderKey_of_floor_le {x : F64} (h : (F64.dec 1 4).toRat ≤ x.toRat) :
    2 * 2 ^ 52 ≤ x.orderKey := by
  have hfloor : 2 * 2 ^ 52 ≤ (F64.dec 1 4).orderKey := by decide +kernel
  rw [← not_lt, toRat_lt_iff, not_lt] at h
  exact hfloor.trans h

/-! ### One sample of a release -/

theorem runCommands_cons {i : Instr} {s t : State} (h : exec i s = .next t) (cmds : List Instr) :
    runCommands (i :: cmds) s = runCommands cmds t := by
  rw [runCommands, h]

/-- Release with a set rate, a level and a coefficient in `[0, 1]`. -/
structure Releasing (s : State) : Prop where
  rate : ∃ sr, s.aenv.sampleRate = some sr
  stage : s.aenv.stage = .release
  level : inUnit s.aenv.level = true
  coef : inUnit s.aenv.releaseCoef = true

/-- The level that a sample of a release computes. -/
def releasedLevel (a : Aenv) : F64 := F64.mul a.level a.releaseCoef

/-- What a sample of a release makes of the envelope: below the floor it ends. -/
def releasedAenv (a : Aenv) : Aenv :=
  if F64.lt (releasedLevel a) (F64.dec 1 4) then { a with level := F64.zero, stage := .idle }
  else { a with level := releasedLevel a }

theorem releasedAenv_of_lt {a : Aenv} (h : F64.lt (releasedLevel a) (F64.dec 1 4) = true) :
    releasedAenv a = { a with level := F64.zero, stage := .idle } := if_pos h

theorem releasedAenv_of_not_lt {a : Aenv} (h : F64.lt (releasedLevel a) (F64.dec 1 4) = false) :
    releasedAenv a = { a with level := releasedLevel a } := if_neg (by simp [h])

namespace Releasing

variable {s : State}

theorem releasedLevel_inUnit (h : Releasing s) : inUnit (releasedLevel s.aenv) = true :=
  (mul_inUnit h.level h.coef).1

theorem releasedLevel_le (h : Releasing s) : (releasedLevel s.aenv).toRat ≤ s.aenv.level.toRat :=
  (mul_inUnit h.level h.coef).2

theorem aenv_inUnit (h : Releasing s) : inUnit (releasedAenv s.aenv).level = true := by
  unfold releasedAenv
  split
  · exact inUnit_zero
  · exact h.releasedLevel_inUnit

theorem aenv_level_le (h : Releasing s) : (releasedAenv s.aenv).level.toRat ≤ s.aenv.level.toRat := by
  unfold releasedAenv
  split
  · rw [toRat_zero]; exact ((inUnit_iff _).mp h.level).2.1
  · exact h.releasedLevel_le

/-- No value overflows, so nothing is recorded. -/
theorem exec_aenvProc (h : Releasing s) :
    exec .aenvProc s = .next
      { s with aenv := releasedAenv s.aenv
               resp := s.resp ++ [F64.r32 (releasedAenv s.aenv).level] } := by
  obtain ⟨sr, hsr⟩ := h.rate
  have hfin : (releasedLevel s.aenv).isFinite = true := isFinite_of_inUnit h.releasedLevel_inUnit
  have hwritten : written (F64.mul s.aenv.level s.aenv.releaseCoef) = releasedLevel s.aenv :=
    written_of_finite hfin
  have hprocess : aenvProcess binary64 s.aenv =
      { unit := releasedAenv s.aenv, sample := (releasedAenv s.aenv).level,
        overflow := anyNonfinite binary64 [releasedLevel s.aenv] } := by
    rw [aenvProcess_release h.stage, aenvFall_binary64, hwritten]
    rfl
  have hsticky : stickyAfter [releasedLevel s.aenv] [(releasedAenv s.aenv).level] s.sticky = s.sticky := by
    simp [stickyAfter, hfin, overflows32_of_inUnit h.aenv_inUnit]
  rw [execAenvProc_of_process hsr hprocess, hsticky]

/-! ### The end of a release -/

/-- A sample that does not end the release lowers the level's pattern. -/
theorem orderKey_lt (h : Releasing s) (hc : s.aenv.releaseCoef.toRat < 1)
    (hfloor : F64.lt (releasedLevel s.aenv) (F64.dec 1 4) = false) :
    0 < s.aenv.level.orderKey ∧ (releasedLevel s.aenv).orderKey < s.aenv.level.orderKey := by
  have hle := (lt_eq_false_iff (isFinite_of_inUnit h.releasedLevel_inUnit) (by decide +kernel)).mp hfloor
  have hkey := orderKey_of_floor_le (hle.trans h.releasedLevel_le)
  have hlt := mul_toRat_lt h.level h.coef hc hkey
  exact ⟨by omega, (toRat_lt_iff _ _).mp hlt⟩

/-- The level's pattern bounds the number of samples. -/
theorem ends (h : Releasing s) (hc : s.aenv.releaseCoef.toRat < 1) :
    ∃ n u, runCommands (List.replicate n .aenvProc) s = .next u ∧ u.aenv.stage = .idle ∧
      u.aenv.level = F64.zero := by
  induction hk : s.aenv.level.orderKey.toNat using Nat.strong_induction_on generalizing s with
  | _ k ih =>
    obtain ⟨t, hexec, haenv⟩ : ∃ t, exec .aenvProc s = .next t ∧ t.aenv = releasedAenv s.aenv :=
      ⟨_, h.exec_aenvProc, rfl⟩
    cases hfloor : F64.lt (releasedLevel s.aenv) (F64.dec 1 4) with
    | true =>
      rw [releasedAenv_of_lt hfloor] at haenv
      exact ⟨1, t, runCommands_cons hexec [], by rw [haenv], by rw [haenv]⟩
    | false =>
      rw [releasedAenv_of_not_lt hfloor] at haenv
      obtain ⟨hpos, hdown⟩ := h.orderKey_lt hc hfloor
      have ht : Releasing t := by
        constructor <;> rw [haenv]
        exacts [h.rate, h.stage, h.releasedLevel_inUnit, h.coef]
      obtain ⟨n, u, hrun, hu⟩ := ih t.aenv.level.orderKey.toNat (by rw [haenv]; dsimp only; omega) ht
        (by rwa [haenv]) rfl
      exact ⟨n + 1, u, (runCommands_cons hexec _).trans hrun, hu⟩

end Releasing

/-- Settles O32: a sample is a product of two values of `[0, 1]` or the end, and with a coefficient
below 1 the level's pattern goes down until the end. -/
theorem releaseNeverRises : Obligations.ReleaseNeverRises := by
  intro s sr hsr hstage hlevel hcoef
  have h : Releasing s := ⟨⟨sr, hsr⟩, hstage, hlevel, hcoef⟩
  refine ⟨_, h.exec_aenvProc, ?_, h.aenv_inUnit, ?_, rfl, ?_, fun hc => h.ends ?_⟩
  · exact (ge_iff (isFinite_of_inUnit hlevel) (isFinite_of_inUnit h.aenv_inUnit)).mpr h.aenv_level_le
  · dsimp only [releasedAenv]; split <;> rfl
  · dsimp only [releasedAenv]; split
    · exact .inr ⟨rfl, rfl⟩
    · exact .inl hstage
  · rwa [lt_iff (isFinite_of_inUnit hcoef) one_isFinite, toRat_one] at hc

end Sys2Proof.Machine

end


/-! ## The filter's depths, its cutoff range and its accent (rules R205, R210, R211 and R213) -/

section

namespace Sys2Proof.Machine

open F64

/-! ### Clamping a number that may be infinite -/

/-- On numbers, the infinities included, `>=` holds where `<` fails. -/
theorem ge_of_not_lt_of_not_isNaN {a b : F64} (ha : a.isNaN = false) (hb : b.isNaN = false)
    (h : F64.lt a b = false) : F64.ge a b = true := by
  simpa [F64.lt, F64.ge, ha, hb] using h

theorem ge_self {a : F64} (ha : a.isNaN = false) : F64.ge a a = true :=
  ge_of_not_lt_of_not_isNaN ha ha (lt_self a)

theorem abs_orderKey (x : F64) : |x.orderKey| = x.mag := by
  rw [orderKey_eq, abs_mul, abs_signFactor, one_mul, Nat.abs_cast]

/-- Between two finite values no pattern is an infinity's. -/
theorem isFinite_of_ge_of_ge {x lo hi : F64} (hlo : lo.isFinite = true) (hhi : hi.isFinite = true)
    (hxlo : F64.ge x lo = true) (hhix : F64.ge hi x = true) : x.isFinite = true := by
  rw [isFinite_iff] at hlo hhi ⊢
  simp only [F64.ge, Bool.and_eq_true, decide_eq_true_eq] at hxlo hhix
  have hkey : |x.orderKey| ≤ max |lo.orderKey| |hi.orderKey| :=
    abs_le_max_abs_abs hxlo.2 hhix.2
  rw [abs_orderKey, abs_orderKey, abs_orderKey] at hkey
  omega

/-- The answer of `clamp` is an end, or the value where it is not outside of them. -/
theorem clamp_cases (x lo hi : F64) :
    F64.clamp x lo hi = lo ∨ F64.clamp x lo hi = hi ∨
      (F64.clamp x lo hi = x ∧ F64.lt x lo = false ∧ F64.lt hi x = false) := by
  rw [F64.clamp]
  rcases min_cases (F64.max x lo) hi with ⟨hmin, hhi⟩ | ⟨hmin, -⟩ <;> rw [hmin]
  · rcases max_cases x lo with ⟨hmax, hlo⟩ | ⟨hmax, -⟩ <;> rw [hmax] at hhi ⊢
    · exact .inr (.inr ⟨rfl, hlo, hhi⟩)
    · exact .inl rfl
  · exact .inr (.inl rfl)

/-- A number clamped between finite ends in order is a finite value between them (rule R12). -/
theorem clamp_between {x lo hi : F64} (hx : x.isNaN = false) (hlo : lo.isFinite = true)
    (hhi : hi.isFinite = true) (hends : F64.ge hi lo = true) :
    (F64.clamp x lo hi).isFinite = true ∧ F64.ge (F64.clamp x lo hi) lo = true ∧
      F64.ge hi (F64.clamp x lo hi) = true := by
  have hloNum := not_isNaN_of_isFinite hlo
  have hhiNum := not_isNaN_of_isFinite hhi
  rcases clamp_cases x lo hi with h | h | ⟨h, hxlo, hhix⟩ <;> rw [h]
  · exact ⟨hlo, ge_self hloNum, hends⟩
  · exact ⟨hhi, hends, ge_self hhiNum⟩
  · have hge := ge_of_not_lt_of_not_isNaN hx hloNum hxlo
    have hle := ge_of_not_lt_of_not_isNaN hhiNum hx hhix
    exact ⟨isFinite_of_ge_of_ge hlo hhi hge hle, hge, hle⟩

/-! ### FILT_PROC's cutoff -/

theorem cutoffFloor_isFinite : (F64.ofNat 5).isFinite = true := by decide +kernel

/-- FILT_PROC, its checks passed, writes the modulated cutoff to its register. -/
theorem exec_filtProc_fc {wIn wEnv wAcc wFm : Word} {s : State} {sr : F64}
    (hIn : f32Finite wIn = true) (hEnv : f32Finite wEnv = true) (hAcc : f32Finite wAcc = true)
    (hFm : f32Finite wFm = true) (hsr : s.filt.sampleRate = some sr) :
    ∃ t, exec (.filtProc wIn wEnv wAcc wFm) s = .next t ∧
      t.filt.fc = written (modulatedCutoff params sr
        { input := F64.ofF32 wIn, env := F64.ofF32 wEnv, acc := F64.ofF32 wAcc, fm := F64.ofF32 wFm }
        s.filt) :=
  ⟨_, filtProcFiltersOneSample wIn wEnv wAcc wFm s sr hIn hEnv hAcc hFm hsr, by
    rw [modulatedCutoff_params]⟩

/-- Settles O39: the register gets the clamped cutoff, which is finite and so written as computed. -/
theorem modulatedCutoffStaysInRange : Obligations.ModulatedCutoffStaysInRange := by
  intro wIn wEnv wAcc wFm s sr hIn hEnv hAcc hFm hsr _ htop hends hnum
  obtain ⟨t, hexec, hfc⟩ := exec_filtProc_fc hIn hEnv hAcc hFm hsr
  obtain ⟨hfin, hge, hle⟩ := clamp_between hnum cutoffFloor_isFinite htop hends
  rw [modulatedCutoff, params_num, binary64_add, clampCutoff_binary64, written_of_finite hfin] at hfc
  exact ⟨t, hexec, by rwa [hfc], by rwa [hfc]⟩

/-! ### The accent operand -/

/-- The default `ACCENT` answers 0 whatever it is given. -/
theorem params_accent (acc env envMod cutoff : F64) :
    params.accent acc env envMod cutoff = F64.zero := rfl

/-- The modulation offset is the only place that reads the accent level, through `ACCENT`. -/
theorem filtProcess_acc (sr input env acc acc' fm : F64) (f : Filt) :
    filtProcess params sr { input, env, acc, fm } f =
      filtProcess params sr { input, env, acc := acc', fm } f := by
  simp only [filtProcess, modulatedCutoff, modulationOffset, params_accent]

/-- Settles O40: both operands pass their check, so what is left to read them is the sample. -/
theorem accentHasNoEffect : Obligations.AccentHasNoEffect := by
  intro wIn wEnv acc acc' wFm s hacc hacc'
  change execFiltProcWith params wIn wEnv acc wFm s = execFiltProcWith params wIn wEnv acc' wFm s
  simp only [execFiltProcWith, withF32_finite hacc, withF32_finite hacc',
    filtProcess_acc _ _ _ (params.num.ofF32 acc) (params.num.ofF32 acc')]

/-! ### FILT_ENVMOD and FILT_FMAMT -/

/-- Settles O37: the operand passes its check and is all that is written. -/
theorem filtDepthsAreStoredAsGiven : Obligations.FiltDepthsAreStoredAsGiven := by
  intro w s hw
  constructor
  · change execFiltEnvmodWith params w s = _
    rw [execFiltEnvmodWith, withF32_finite hw, filtSetEnvMod, params_num, binary64_ofF32]
  · change execFiltFmamtWith params w s = _
    rw [execFiltFmamtWith, withF32_finite hw, filtSetFmAmount, params_num, binary64_ofF32]

end Sys2Proof.Machine

end


/-! ## RESET, and TICK as the four unit commands (rules R241, R242 and R244) -/

section

namespace Sys2Proof.Machine

/-! ### RESET -/

/-- Settles O15: RESET is `resetRegisters`, and the STATUS word of the reset record is evaluated. -/
theorem resetCommandKeepsTheResponses : Obligations.ResetCommandKeepsTheResponses := fun _ =>
  ⟨rfl, by decide +kernel⟩

/-! ### Words that stand for a value -/

/-- A word whose exponent field is all ones converts to an infinity or a NaN. -/
theorem ofF32_not_finite {w : Word} (h : f32Finite w = false) : (F64.ofF32 w).isFinite = false := by
  have hexp : w.toNat / 2 ^ 23 % 2 ^ 8 = 255 := by simpa [f32Finite] using h
  rw [F64.ofF32, if_pos hexp]
  split
  · exact inf_not_finite _
  · decide

/-- A finite value that rounding to binary32 keeps is emitted as a word that passes the check of
rule R84. -/
theorem f32Finite_r32 {x : F64} (hfin : x.isFinite = true) (hround : F64.ofF32 (F64.r32 x) = x) :
    f32Finite (F64.r32 x) = true := by
  by_contra hw
  have hx := ofF32_not_finite (Bool.eq_false_of_not_eq_true hw)
  rw [hround, hfin] at hx
  contradiction

/-! ### The four unit commands

With its checks passed, each is its unit's body and one completion. -/

theorem exec_oscProc {s : State} {sr : F64} (hsr : s.osc.sampleRate = some sr) :
    exec .oscProc s = .next
      (complete binary64 (oscProcess params sr s.osc).overflow [(oscProcess params sr s.osc).sample]
        { s with osc := (oscProcess params sr s.osc).unit }) := by
  change execOscProcWith params s = _
  rw [execOscProcWith, hsr, withRate_some, params_num]

theorem exec_aenvProc {s : State} {sr : F64} (hsr : s.aenv.sampleRate = some sr) :
    exec .aenvProc s = .next
      (complete binary64 (aenvProcess binary64 s.aenv).overflow [(aenvProcess binary64 s.aenv).sample]
        { s with aenv := (aenvProcess binary64 s.aenv).unit }) := by
  change execAenvProcWith params s = _
  rw [execAenvProcWith, hsr, withRate_some, params_num]

theorem exec_menvProc {s : State} {sr : F64} (hsr : s.menv.sampleRate = some sr) :
    exec .menvProc s = .next
      (complete binary64 (menvProcess binary64 s.menv).overflow [(menvProcess binary64 s.menv).sample]
        { s with menv := (menvProcess binary64 s.menv).unit }) := by
  change execMenvProcWith params s = _
  rw [execMenvProcWith, hsr, withRate_some, params_num]

/-- What FILT_PROC is fed with by its four operand words. -/
def filtInputOf (wIn wEnv wAcc wFm : Word) : FiltInput :=
  { input := F64.ofF32 wIn, env := F64.ofF32 wEnv, acc := F64.ofF32 wAcc, fm := F64.ofF32 wFm }

theorem exec_filtProc {wIn wEnv wAcc wFm : Word} {s : State} {sr : F64}
    (hIn : f32Finite wIn = true) (hEnv : f32Finite wEnv = true) (hAcc : f32Finite wAcc = true)
    (hFm : f32Finite wFm = true) (hsr : s.filt.sampleRate = some sr) :
    exec (.filtProc wIn wEnv wAcc wFm) s = .next
      (complete binary64 (filtProcess params sr (filtInputOf wIn wEnv wAcc wFm) s.filt).overflow
        [(filtProcess params sr (filtInputOf wIn wEnv wAcc wFm) s.filt).sample]
        { s with filt := (filtProcess params sr (filtInputOf wIn wEnv wAcc wFm) s.filt).unit }) := by
  change execFiltProcWith params wIn wEnv wAcc wFm s = _
  rw [execFiltProcWith, withF32_finite hIn, withF32_finite hEnv, withF32_finite hAcc,
    withF32_finite hFm, hsr, withRate_some, params_num]
  rfl

/-- The four unit commands one after the other, whatever finite words FILT_PROC is given: each advances
its own unit from where the first state has it, and appends its word. -/
theorem runCommands_unitCommands {wIn wEnv wAcc wFm : Word} {s : State} {srO srA srM srF : F64}
    (hIn : f32Finite wIn = true) (hEnv : f32Finite wEnv = true) (hAcc : f32Finite wAcc = true)
    (hFm : f32Finite wFm = true) (hO : s.osc.sampleRate = some srO)
    (hA : s.aenv.sampleRate = some srA) (hM : s.menv.sampleRate = some srM)
    (hF : s.filt.sampleRate = some srF) :
    let o := oscProcess params srO s.osc
    let a := aenvProcess binary64 s.aenv
    let m := menvProcess binary64 s.menv
    let y := filtProcess params srF (filtInputOf wIn wEnv wAcc wFm) s.filt
    ∃ u, runCommands [.oscProc, .aenvProc, .menvProc, .filtProc wIn wEnv wAcc wFm] s = .next u ∧
      unitsOf u = (o.unit, a.unit, m.unit, y.unit) ∧
      u.resp = s.resp ++ [F64.r32 o.sample, F64.r32 a.sample, F64.r32 m.sample, F64.r32 y.sample] := by
  intro o a m y
  refine ⟨_, (runCommands_cons (exec_oscProc hO) _).trans <|
    (runCommands_cons (exec_aenvProc (sr := srA) (by simpa)) _).trans <|
    (runCommands_cons (exec_menvProc (sr := srM) (by simpa)) _).trans <|
    runCommands_cons (exec_filtProc hIn hEnv hAcc hFm (sr := srF) (by simpa)) _, ?_, ?_⟩
  · simp [unitsOf, o, a, m, y]
  · simp [o, a, m, y]

/-! ### TICK -/

/-- Settles O43: the words handed to FILT_PROC pass its checks and convert back to the values that TICK
hands on itself. -/
theorem tickEqualsTheFourUnitCommands : Obligations.TickEqualsTheFourUnitCommands := by
  intro fm s srO srA srM srF hfm hO hA hM hF o a m hof haf hmf hor har hmr
  obtain ⟨u, hrun, hunits, hresp⟩ := runCommands_unitCommands (f32Finite_r32 hof hor)
    (f32Finite_r32 hmf hmr) (f32Finite_r32 haf har) hfm hO hA hM hF
  have hinput : filtInputOf (F64.r32 o) (F64.r32 m) (F64.r32 a) fm =
      { input := o, env := m, acc := a, fm := F64.ofF32 fm } := by
    rw [filtInputOf, hor, hmr, har]
  rw [hinput] at hunits hresp
  simp only [unitsOf, Prod.mk.injEq] at hunits
  obtain ⟨hosc, haenv, hmenv, hfilt⟩ := hunits
  exact ⟨_, u, _, tickAdvancesAllFourUnits fm s srO srA srM srF hfm hO hA hM hF, hrun,
    ⟨hosc.symm, haenv.symm, hmenv.symm, hfilt.symm⟩, rfl, hresp⟩

end Sys2Proof.Machine

end


/-! ## Errors neither stop the block nor pile up (rules R260, R261, R262 and R266) -/

section

namespace Sys2Proof.Machine

/-! ### No state stops the block -/

/-- Settles O8: the reset input, a wait for words and a rejected header answer a next state, and so
does the execution of every command. -/
theorem noStepStops : Obligations.NoStepStops := by
  intro s
  rcases stepBy_cases params exec s with ⟨-, hheld⟩ | ⟨-, ⟨-, hwait⟩ |
      ⟨_, _, -, ⟨i, -, hrun⟩ | ⟨_, -, hreject⟩⟩⟩
  · exact ⟨_, hheld⟩
  · exact ⟨_, hwait⟩
  · obtain ⟨t, ht⟩ := exec_next i (acceptCommand s).2
    exact ⟨t, hrun.trans ht⟩
  · exact ⟨_, hreject⟩

/-! ### At most one error a command -/

/-- A command other than RESET keeps the sticky bits or records a single error. -/
theorem StickyStep.keeps_or_records {i : Instr} {t t' : Sticky} (h : StickyStep i t t')
    (hi : i ≠ .reset) : t' = t ∨ ∃ e, t' = recordError e t := by
  cases h with
  | keep => exact .inl rfl
  | record _ e => exact .inr ⟨e, rfl⟩
  | reset => exact absurd rfl hi

/-- Settles O12: the ways in which a command changes the sticky bits, and the two cases of recording. -/
theorem atMostOneErrorIsRecorded : Obligations.AtMostOneErrorIsRecorded := by
  refine ⟨fun i s t h hi => (exec_steps i s t h).sticky.keeps_or_records hi, recordError_first,
    fun e t herr => ?_, ⟨rfl, rfl, rfl, rfl, rfl, rfl⟩⟩
  rw [recordError_later e t herr, herr]

end Sys2Proof.Machine

end


/-! ## The reset input, and a block without a command (rules R290, R291 and R300) -/

section

namespace Sys2Proof.Machine

/-! ### The reset input -/

/-- A step under an asserted reset input holds the block in reset. -/
theorem step_of_resetIn {s : State} (h : s.resetIn = true) :
    step s = .next { State.reset with resetIn := true } := by
  simp only [step, stepBy, applyResetInput, h, if_true, resetWith_params]

theorem assertReset_eq (s : State) : s.assertReset = { State.reset with resetIn := true } := rfl

@[simp] theorem assertReset_resetIn (s : State) : s.assertReset.resetIn = true := rfl

/-- Releasing an asserted reset input leaves the reset state. -/
theorem releaseReset_of_resetIn {s : State} (h : s.resetIn = true) : s.releaseReset = State.reset := by
  rw [State.releaseReset, State.releaseResetWith, if_pos h]
  rfl

/-- Settles O16: the words offered between assertion and release are refused. -/
theorem resetInputHoldsTheBlock : Obligations.ResetInputHoldsTheBlock := by
  refine ⟨fun s => step_of_resetIn, assertReset_eq, fun s ws h => offer_of_resetIn h ws,
    fun s ws => ?_⟩
  rw [offer_of_resetIn (assertReset_resetIn s), releaseReset_of_resetIn (assertReset_resetIn s)]

/-! ### Idling -/

/-- A step that finds no command under way and no word on the port leaves the state as it is. -/
theorem step_of_idle {s : State} (hreset : s.resetIn = false) (hframing : s.framing = .waiting)
    (hport : s.cmdPort = []) : step s = .next s := by
  simp [step, stepBy, hreset, acceptCommand_idle hframing hport]

/-- Settles O17: the reset state is idle. -/
theorem nothingHappensWithoutACommand : Obligations.NothingHappensWithoutACommand :=
  ⟨fun _ => step_of_idle, step_of_idle rfl rfl rfl⟩

end Sys2Proof.Machine

end
